-- ==== Sys2Proof/Word.lean ====
section
/-! DEFINITION. The word types: a byte of a buffer, a 32-bit host word, a 64-bit register
(00_scope.md R8, R9; 20_memory.md R51, R54). -/

namespace Sys2Proof

/-- A byte: an 8-bit unsigned value, bit 0 least significant (R8). -/
abbrev Byte := BitVec 8

/-- A host register word, 32 bits (R51, R53); a command is one such word (R80). -/
abbrev Word := BitVec 32

/-- A 64-bit register: OPA, OPB, OPC, RES (R24, R26). -/
abbrev DWord := BitVec 64

end Sys2Proof
end

