-- ==== Sys2Proof/Config.lean ====
section
/-! DEFINITION. The parameters of 00_scope.md R7 ("No other parameter exists"). The spec leaves no
value open, so there is no free value here. -/

namespace Sys2Proof.Config

/-- `BUF_LEN`, the record buffer's length in bytes (R7, R76). -/
abbrev bufLen : Nat := 64

/-- `NAME_MAX`, the name slot's length in bytes (R7). -/
abbrev nameMax : Nat := 42

/-- `INT32_MIN` (R7). -/
abbrev int32Min : Int := -2147483648

/-- `INT32_MAX` (R7). -/
abbrev int32Max : Int := 2147483647

/-- `U10_MAX` (R7). -/
abbrev u10Max : Int := 1023

/-- `U4_MAX` (R7). -/
abbrev u4Max : Int := 15

/-- The greatest of `TYPE_CODES` = 0, 1, 2 (R7). -/
abbrev typeMax : Int := 2

/-- The size of the host register space in bytes, 0x000 to 0xFFF (R7, R50). -/
abbrev regSpaceSize : Nat := 4096

end Sys2Proof.Config
end

