-- ==== Sys2Proof/Syntax.lean ====
section
/-! DEFINITION. The 39 commands of 30_encoding.md R84, one constructor per row of
spec/opcode_table.json, with the operands R83 gives each. -/

namespace Sys2Proof

/-- A decoded command (R84). `off` is a byte offset, `len` a name length, `sh` a shift or bit index
(all natural numbers, R83), `mask` a byte, `hi` the nibble select (true = bits 7:4). Values never
travel in the command word: they are read from OPA, OPB, OPC and NSTAGE (R83). -/
inductive Instr where
  /-- BEGIN (R141). -/
  | beginBuild
  /-- SEAL (R156). -/
  | sealRecord
  /-- WR32 off (R113). -/
  | wr32 (off : Nat)
  /-- RD32 off (R114). -/
  | rd32 (off : Nat)
  /-- WR10 off (R115). -/
  | wr10 (off : Nat)
  /-- RD10 off (R116). -/
  | rd10 (off : Nat)
  /-- WRNIB off, hi or lo (R117). -/
  | wrnib (off : Nat) (hi : Bool)
  /-- RDNIB off, hi or lo (R118). -/
  | rdnib (off : Nat) (hi : Bool)
  /-- SETBIT off, i (R119). -/
  | setbit (off : Nat) (sh : Nat)
  /-- GETBIT off, i (R120). -/
  | getbit (off : Nat) (sh : Nat)
  /-- SETMASK off, mask, sh (R121). -/
  | setmask (off : Nat) (mask : Byte) (sh : Nat)
  /-- WITH.NAME len (R143). -/
  | withName (len : Nat)
  /-- WITH.COORDS (R144). -/
  | withCoords
  /-- WITH.GOLD (R145). -/
  | withGold
  /-- WITH.MANA (R146). -/
  | withMana
  /-- WITH.HEALTH (R147). -/
  | withHealth
  /-- WITH.RESPECT (R148). -/
  | withRespect
  /-- WITH.STRENGTH (R149). -/
  | withStrength
  /-- WITH.EXPERIENCE (R150). -/
  | withExperience
  /-- WITH.LEVEL (R151). -/
  | withLevel
  /-- WITH.HOUSE (R152). -/
  | withHouse
  /-- WITH.GUN (R153). -/
  | withGun
  /-- WITH.FAMILY (R154). -/
  | withFamily
  /-- WITH.TYPE (R155). -/
  | withType
  /-- GET.NAME (R171). -/
  | getName
  /-- GET.X (R172). -/
  | getX
  /-- GET.Y (R173). -/
  | getY
  /-- GET.Z (R174). -/
  | getZ
  /-- GET.GOLD (R175). -/
  | getGold
  /-- GET.MANA (R176). -/
  | getMana
  /-- GET.HEALTH (R177). -/
  | getHealth
  /-- GET.RESPECT (R178). -/
  | getRespect
  /-- GET.STRENGTH (R179). -/
  | getStrength
  /-- GET.EXPERIENCE (R180). -/
  | getExperience
  /-- GET.LEVEL (R181). -/
  | getLevel
  /-- GET.HOUSE (R182). -/
  | getHouse
  /-- GET.GUN (R183). -/
  | getGun
  /-- GET.FAMILY (R184). -/
  | getFamily
  /-- GET.TYPE (R185). -/
  | getType
deriving DecidableEq, Repr

end Sys2Proof
end

