-- ==== Sys2Proof/WellFormed.lean ====
section
/-! DEFINITION. Which commands are well formed: every operand fits the field of the command word
that carries it (30_encoding.md R81, R83; R90: "An assembler rejects an operand that does not fit
its field"). `mask` and `hi` are a byte and a bit by their types. -/

namespace Sys2Proof

/-- OFF and LEN are 8-bit fields: 0..255 (R81, R83). -/
abbrev fitsOff (n : Nat) : Bool := decide (n < 256)

/-- SH is a 3-bit field: 0..7 (R81, R83). -/
abbrev fitsSh (n : Nat) : Bool := decide (n < 8)

/-- Every operand fits its field. -/
def Instr.wf : Instr → Bool
  | .beginBuild => true
  | .sealRecord => true
  | .wr32 off => fitsOff off
  | .rd32 off => fitsOff off
  | .wr10 off => fitsOff off
  | .rd10 off => fitsOff off
  | .wrnib off _ => fitsOff off
  | .rdnib off _ => fitsOff off
  | .setbit off sh => fitsOff off && fitsSh sh
  | .getbit off sh => fitsOff off && fitsSh sh
  | .setmask off _ sh => fitsOff off && fitsSh sh
  | .withName len => fitsOff len
  | .withCoords => true
  | .withGold => true
  | .withMana => true
  | .withHealth => true
  | .withRespect => true
  | .withStrength => true
  | .withExperience => true
  | .withLevel => true
  | .withHouse => true
  | .withGun => true
  | .withFamily => true
  | .withType => true
  | .getName => true
  | .getX => true
  | .getY => true
  | .getZ => true
  | .getGold => true
  | .getMana => true
  | .getHealth => true
  | .getRespect => true
  | .getStrength => true
  | .getExperience => true
  | .getLevel => true
  | .getHouse => true
  | .getGun => true
  | .getFamily => true
  | .getType => true

/-- A well-formed command (R81, R83). -/
abbrev Instr.WellFormed (i : Instr) : Prop := i.wf = true

end Sys2Proof
end

