-- ==== Sys2Proof/Decode.lean ====
section
/-! DEFINITION. The command format (30_encoding.md R80 to R85): its fields, the decoder, total on
every 32-bit word and rejecting by name, the encoder, and the mask and match pairs of
spec/opcode_table.json as data. -/

namespace Sys2Proof

/-- The fields of the CMD format (R81). -/
structure CmdFields where
  /-- Bits 7:0, the opcode. -/
  opc  : Byte
  /-- Bits 15:8, OFF or LEN. -/
  off  : Byte := 0
  /-- Bits 23:16, MASK. -/
  mask : Byte := 0
  /-- Bits 26:24, SH. -/
  sh   : BitVec 3 := 0
  /-- Bit 27, HI. -/
  hi   : Bool := false
  /-- Bits 31:28, RSV, must be 0. -/
  rsv  : BitVec 4 := 0
deriving DecidableEq, Repr

/-- The fields of a command word (R81). -/
def CmdFields.ofWord (w : Word) : CmdFields where
  opc  := w.extractLsb' 0 8
  off  := w.extractLsb' 8 8
  mask := w.extractLsb' 16 8
  sh   := w.extractLsb' 24 3
  hi   := w.getLsbD 27
  rsv  := w.extractLsb' 28 4

/-- The command word with the given fields at the places of R81, as the rules R113 to R121 write it
(`0x00000018 | off << 8 | mask << 16 | sh << 24`). -/
def CmdFields.toWord (f : CmdFields) : Word :=
  f.opc.setWidth 32 ||| (f.off.setWidth 32 <<< 8) ||| (f.mask.setWidth 32 <<< 16) |||
    (f.sh.setWidth 32 <<< 24) ||| ((BitVec.ofBool f.hi).setWidth 32 <<< 27) |||
    (f.rsv.setWidth 32 <<< 28)

/-- Why a word is `Illegal` (R85). Each reason raises ILLEGAL_COMMAND (R203); the block itself
records no reason (R204). -/
inductive Reject where
  /-- R85 clause 1: the opcode is none of R84. -/
  | undefinedOpcode (opc : Byte)
  /-- R85 clause 2: RSV is not 0. -/
  | reservedNonzero
  /-- R85 clause 2: a field the opcode does not use is not 0. -/
  | unusedFieldNonzero
deriving DecidableEq, Repr

/-- Which fields beside OPC an opcode uses (R84, column "fields"). -/
structure UsedFields where
  off  : Bool
  mask : Bool
  sh   : Bool
  hi   : Bool
deriving DecidableEq, Repr

def usesNothing : UsedFields := ⟨false, false, false, false⟩
def usesOff : UsedFields := ⟨true, false, false, false⟩
def usesOffHi : UsedFields := ⟨true, false, false, true⟩
def usesOffSh : UsedFields := ⟨true, false, true, false⟩
def usesOffMaskSh : UsedFields := ⟨true, true, true, false⟩

/-- Every field the opcode does not use is 0 (R82). -/
def unusedZero (u : UsedFields) (f : CmdFields) : Bool :=
  (u.off || f.off == 0) && (u.mask || f.mask == 0) && (u.sh || f.sh == 0) && (u.hi || !f.hi)

/-- The command, unless RSV or an unused field is nonzero (R82, R85 clause 2). -/
def accept (u : UsedFields) (f : CmdFields) (i : Instr) : Except Reject Instr :=
  if f.rsv ≠ 0 then .error .reservedNonzero
  else if unusedZero u f then .ok i
  else .error .unusedFieldNonzero

/-- The command with the given fields, by the opcode map R84. -/
def decodeFields (f : CmdFields) : Except Reject Instr :=
  match f.opc.toNat with
  | 0x01 => accept usesNothing f .beginBuild
  | 0x02 => accept usesNothing f .sealRecord
  | 0x10 => accept usesOff f (.wr32 f.off.toNat)
  | 0x11 => accept usesOff f (.rd32 f.off.toNat)
  | 0x12 => accept usesOff f (.wr10 f.off.toNat)
  | 0x13 => accept usesOff f (.rd10 f.off.toNat)
  | 0x14 => accept usesOffHi f (.wrnib f.off.toNat f.hi)
  | 0x15 => accept usesOffHi f (.rdnib f.off.toNat f.hi)
  | 0x16 => accept usesOffSh f (.setbit f.off.toNat f.sh.toNat)
  | 0x17 => accept usesOffSh f (.getbit f.off.toNat f.sh.toNat)
  | 0x18 => accept usesOffMaskSh f (.setmask f.off.toNat f.mask f.sh.toNat)
  | 0x20 => accept usesOff f (.withName f.off.toNat)
  | 0x21 => accept usesNothing f .withCoords
  | 0x22 => accept usesNothing f .withGold
  | 0x23 => accept usesNothing f .withMana
  | 0x24 => accept usesNothing f .withHealth
  | 0x25 => accept usesNothing f .withRespect
  | 0x26 => accept usesNothing f .withStrength
  | 0x27 => accept usesNothing f .withExperience
  | 0x28 => accept usesNothing f .withLevel
  | 0x29 => accept usesNothing f .withHouse
  | 0x2A => accept usesNothing f .withGun
  | 0x2B => accept usesNothing f .withFamily
  | 0x2C => accept usesNothing f .withType
  | 0x30 => accept usesNothing f .getName
  | 0x31 => accept usesNothing f .getX
  | 0x32 => accept usesNothing f .getY
  | 0x33 => accept usesNothing f .getZ
  | 0x34 => accept usesNothing f .getGold
  | 0x35 => accept usesNothing f .getMana
  | 0x36 => accept usesNothing f .getHealth
  | 0x37 => accept usesNothing f .getRespect
  | 0x38 => accept usesNothing f .getStrength
  | 0x39 => accept usesNothing f .getExperience
  | 0x3A => accept usesNothing f .getLevel
  | 0x3B => accept usesNothing f .getHouse
  | 0x3C => accept usesNothing f .getGun
  | 0x3D => accept usesNothing f .getFamily
  | 0x3E => accept usesNothing f .getType
  | _ => .error (.undefinedOpcode f.opc)

/-- `Decode` of R85: total, one command or a named rejection. -/
def decode (w : Word) : Except Reject Instr :=
  decodeFields (CmdFields.ofWord w)

/-- The fields of a command's word (R84, R81); an unused field is 0 (R82). -/
def Instr.fields : Instr → CmdFields
  | .beginBuild => { opc := 0x01#8 }
  | .sealRecord => { opc := 0x02#8 }
  | .wr32 off => { opc := 0x10#8, off := BitVec.ofNat 8 off }
  | .rd32 off => { opc := 0x11#8, off := BitVec.ofNat 8 off }
  | .wr10 off => { opc := 0x12#8, off := BitVec.ofNat 8 off }
  | .rd10 off => { opc := 0x13#8, off := BitVec.ofNat 8 off }
  | .wrnib off hi => { opc := 0x14#8, off := BitVec.ofNat 8 off, hi := hi }
  | .rdnib off hi => { opc := 0x15#8, off := BitVec.ofNat 8 off, hi := hi }
  | .setbit off sh => { opc := 0x16#8, off := BitVec.ofNat 8 off, sh := BitVec.ofNat 3 sh }
  | .getbit off sh => { opc := 0x17#8, off := BitVec.ofNat 8 off, sh := BitVec.ofNat 3 sh }
  | .setmask off mask sh => { opc := 0x18#8, off := BitVec.ofNat 8 off, mask := mask, sh := BitVec.ofNat 3 sh }
  | .withName len => { opc := 0x20#8, off := BitVec.ofNat 8 len }
  | .withCoords => { opc := 0x21#8 }
  | .withGold => { opc := 0x22#8 }
  | .withMana => { opc := 0x23#8 }
  | .withHealth => { opc := 0x24#8 }
  | .withRespect => { opc := 0x25#8 }
  | .withStrength => { opc := 0x26#8 }
  | .withExperience => { opc := 0x27#8 }
  | .withLevel => { opc := 0x28#8 }
  | .withHouse => { opc := 0x29#8 }
  | .withGun => { opc := 0x2A#8 }
  | .withFamily => { opc := 0x2B#8 }
  | .withType => { opc := 0x2C#8 }
  | .getName => { opc := 0x30#8 }
  | .getX => { opc := 0x31#8 }
  | .getY => { opc := 0x32#8 }
  | .getZ => { opc := 0x33#8 }
  | .getGold => { opc := 0x34#8 }
  | .getMana => { opc := 0x35#8 }
  | .getHealth => { opc := 0x36#8 }
  | .getRespect => { opc := 0x37#8 }
  | .getStrength => { opc := 0x38#8 }
  | .getExperience => { opc := 0x39#8 }
  | .getLevel => { opc := 0x3A#8 }
  | .getHouse => { opc := 0x3B#8 }
  | .getGun => { opc := 0x3C#8 }
  | .getFamily => { opc := 0x3D#8 }
  | .getType => { opc := 0x3E#8 }

/-- The command word of a command (R81, R82). -/
def encode (i : Instr) : Word :=
  i.fields.toWord

/-- The mnemonic of a command (R84). -/
def Instr.mnemonic : Instr → String
  | .beginBuild => "BEGIN"
  | .sealRecord => "SEAL"
  | .wr32 _ => "WR32"
  | .rd32 _ => "RD32"
  | .wr10 _ => "WR10"
  | .rd10 _ => "RD10"
  | .wrnib _ _ => "WRNIB"
  | .rdnib _ _ => "RDNIB"
  | .setbit _ _ => "SETBIT"
  | .getbit _ _ => "GETBIT"
  | .setmask _ _ _ => "SETMASK"
  | .withName _ => "WITH.NAME"
  | .withCoords => "WITH.COORDS"
  | .withGold => "WITH.GOLD"
  | .withMana => "WITH.MANA"
  | .withHealth => "WITH.HEALTH"
  | .withRespect => "WITH.RESPECT"
  | .withStrength => "WITH.STRENGTH"
  | .withExperience => "WITH.EXPERIENCE"
  | .withLevel => "WITH.LEVEL"
  | .withHouse => "WITH.HOUSE"
  | .withGun => "WITH.GUN"
  | .withFamily => "WITH.FAMILY"
  | .withType => "WITH.TYPE"
  | .getName => "GET.NAME"
  | .getX => "GET.X"
  | .getY => "GET.Y"
  | .getZ => "GET.Z"
  | .getGold => "GET.GOLD"
  | .getMana => "GET.MANA"
  | .getHealth => "GET.HEALTH"
  | .getRespect => "GET.RESPECT"
  | .getStrength => "GET.STRENGTH"
  | .getExperience => "GET.EXPERIENCE"
  | .getLevel => "GET.LEVEL"
  | .getHouse => "GET.HOUSE"
  | .getGun => "GET.GUN"
  | .getFamily => "GET.FAMILY"
  | .getType => "GET.TYPE"

/-- A row of spec/opcode_table.json: a word is the row's command when `w &&& mask = pattern`
(R85 clause 2). -/
structure OpcodeRow where
  mnemonic : String
  mask     : Word
  pattern  : Word
deriving DecidableEq, Repr

/-- The builder control and codec rows of opcode_table.json. -/
def controlAndCodecRows : List OpcodeRow := [
  ⟨"BEGIN", 0xFFFFFFFF, 0x00000001⟩,
  ⟨"SEAL", 0xFFFFFFFF, 0x00000002⟩,
  ⟨"WR32", 0xFFFF00FF, 0x00000010⟩,
  ⟨"RD32", 0xFFFF00FF, 0x00000011⟩,
  ⟨"WR10", 0xFFFF00FF, 0x00000012⟩,
  ⟨"RD10", 0xFFFF00FF, 0x00000013⟩,
  ⟨"WRNIB", 0xF7FF00FF, 0x00000014⟩,
  ⟨"RDNIB", 0xF7FF00FF, 0x00000015⟩,
  ⟨"SETBIT", 0xF8FF00FF, 0x00000016⟩,
  ⟨"GETBIT", 0xF8FF00FF, 0x00000017⟩,
  ⟨"SETMASK", 0xF80000FF, 0x00000018⟩]

/-- The configuration step rows of opcode_table.json. -/
def stepRows : List OpcodeRow := [
  ⟨"WITH.NAME", 0xFFFF00FF, 0x00000020⟩,
  ⟨"WITH.COORDS", 0xFFFFFFFF, 0x00000021⟩,
  ⟨"WITH.GOLD", 0xFFFFFFFF, 0x00000022⟩,
  ⟨"WITH.MANA", 0xFFFFFFFF, 0x00000023⟩,
  ⟨"WITH.HEALTH", 0xFFFFFFFF, 0x00000024⟩,
  ⟨"WITH.RESPECT", 0xFFFFFFFF, 0x00000025⟩,
  ⟨"WITH.STRENGTH", 0xFFFFFFFF, 0x00000026⟩,
  ⟨"WITH.EXPERIENCE", 0xFFFFFFFF, 0x00000027⟩,
  ⟨"WITH.LEVEL", 0xFFFFFFFF, 0x00000028⟩,
  ⟨"WITH.HOUSE", 0xFFFFFFFF, 0x00000029⟩,
  ⟨"WITH.GUN", 0xFFFFFFFF, 0x0000002A⟩,
  ⟨"WITH.FAMILY", 0xFFFFFFFF, 0x0000002B⟩,
  ⟨"WITH.TYPE", 0xFFFFFFFF, 0x0000002C⟩]

/-- The accessor rows of opcode_table.json. -/
def accessorRows : List OpcodeRow := [
  ⟨"GET.NAME", 0xFFFFFFFF, 0x00000030⟩,
  ⟨"GET.X", 0xFFFFFFFF, 0x00000031⟩,
  ⟨"GET.Y", 0xFFFFFFFF, 0x00000032⟩,
  ⟨"GET.Z", 0xFFFFFFFF, 0x00000033⟩,
  ⟨"GET.GOLD", 0xFFFFFFFF, 0x00000034⟩,
  ⟨"GET.MANA", 0xFFFFFFFF, 0x00000035⟩,
  ⟨"GET.HEALTH", 0xFFFFFFFF, 0x00000036⟩,
  ⟨"GET.RESPECT", 0xFFFFFFFF, 0x00000037⟩,
  ⟨"GET.STRENGTH", 0xFFFFFFFF, 0x00000038⟩,
  ⟨"GET.EXPERIENCE", 0xFFFFFFFF, 0x00000039⟩,
  ⟨"GET.LEVEL", 0xFFFFFFFF, 0x0000003A⟩,
  ⟨"GET.HOUSE", 0xFFFFFFFF, 0x0000003B⟩,
  ⟨"GET.GUN", 0xFFFFFFFF, 0x0000003C⟩,
  ⟨"GET.FAMILY", 0xFFFFFFFF, 0x0000003D⟩,
  ⟨"GET.TYPE", 0xFFFFFFFF, 0x0000003E⟩]

/-- spec/opcode_table.json, the machine-readable copy of R84: the mask and match of each row. It is
written apart from the decoder, so that the two can be held against each other. -/
def opcodeTable : List OpcodeRow :=
  controlAndCodecRows ++ stepRows ++ accessorRows

/-- The word matches the row (R85 clause 2). -/
abbrev OpcodeRow.Matches (r : OpcodeRow) (w : Word) : Prop := w &&& r.mask = r.pattern

/-- What the decoder reads from the table's numbering of a word: a command is one 32-bit word, and
its bit i is the register's bit i (R62, R80). A number of more than 32 bits is no command word. -/
def decodeTableWord (nbits w : Nat) : Option Instr :=
  if nbits ≤ 32 ∧ w < 2 ^ nbits then
    match decode (BitVec.ofNat 32 w) with
    | .ok i => some i
    | .error _ => none
  else none

end Sys2Proof
end

