-- ==== Sys2Proof/Machine/Layout.lean ====
section
/-! DEFINITION. The record layout: the fixed offsets and bit positions of 20_memory.md R57, R58. -/

namespace Sys2Proof.Machine.Layout

/-- Name, bytes 0 to 41 (R57). -/
def nameOff : Nat := 0
/-- X, bytes 42 to 45 (R57). -/
def xOff : Nat := 42
/-- Y, bytes 46 to 49 (R57). -/
def yOff : Nat := 46
/-- Z, bytes 50 to 53 (R57). -/
def zOff : Nat := 50
/-- Gold, bytes 54 to 57 (R57). -/
def goldOff : Nat := 54
/-- Mana, byte 58 and bits 5:4 of byte 59 (R57). -/
def manaOff : Nat := 58
/-- Health, byte 60 and bits 5:4 of byte 61 (R57). -/
def healthOff : Nat := 60
/-- The byte of the flags and Type (R57, R58). -/
def flagsOff : Nat := 61
/-- HasHouse, bit 0 of byte 61 (R57). -/
def houseBit : Nat := 0
/-- HasGun, bit 1 of byte 61 (R57). -/
def gunBit : Nat := 1
/-- HasFamily, bit 2 of byte 61 (R57). -/
def familyBit : Nat := 2
/-- The unused bit of byte 61, "must remain 0" (R58). -/
def unusedBit : Nat := 3
/-- Type, bits 7:6 of byte 61 (R57). -/
def typeMask : Byte := 0xC0
/-- The shift of Type (R155). -/
def typeShift : Nat := 6
/-- Respect (high nibble) and Strength (low nibble), byte 62 (R57). -/
def respectStrengthOff : Nat := 62
/-- Experience (high nibble) and Level (low nibble), byte 63 (R57). -/
def experienceLevelOff : Nat := 63
/-- Byte 59, whose bits 7:6 and 3:0 no field owns (R58). -/
def manaHighOff : Nat := 59
/-- The unowned bits of byte 59 (R58, R156). -/
def manaHighReserved : Byte := 0xCF

end Sys2Proof.Machine.Layout
end

