-- ==== Sys2Proof/Machine/State.lean ====
section
/-! DEFINITION. The block's state (10_state.md R20 to R32), the host's side of it, the state after
reset (R37, 70_reset_and_hazards.md R230), and the reasons a step can stop. -/

namespace Sys2Proof.Machine

/-- A byte memory (BUF or NSTAGE): cells at strictly rising offsets, none of them 0x00; an unlisted
offset reads as 0x00, its value after reset (R37). DESIGN CHOICE (log 6): the representation. -/
abbrev Memory := List Host.Cell

/-- MODE, the lifecycle state (R27): codes 0, 1, 2. The code 3 is "never held" (R27, R39; log 8). -/
inductive Mode where
  | idle
  | building
  | sealed
deriving DecidableEq, Repr

/-- An error a command can raise (60_exceptions.md R200, codes 1 to 3). -/
inductive CmdError where
  | outOfRange
  | invalidLayout
  | illegalCommand
deriving DecidableEq, Repr

/-- The outcome held in ERR and in ABORT_CODE (R28, R29, R200): `ok` is code 0. -/
inductive ErrCode where
  | ok
  | outOfRange
  | invalidLayout
  | illegalCommand
deriving DecidableEq, Repr

/-- The state of the block: exactly the fields of R20. -/
structure Block where
  /-- BUF[0..63] (R21). -/
  buf       : Memory
  /-- NSTAGE[0..41] (R23). -/
  nstage    : Memory
  /-- OPA (R24). -/
  opa       : DWord
  /-- OPB (R24). -/
  opb       : DWord
  /-- OPC (R24). -/
  opc       : DWord
  /-- RES (R26). -/
  res       : DWord
  /-- MODE (R27). -/
  mode      : Mode
  /-- ERR (R28). -/
  err       : ErrCode
  /-- ABORT_CODE (R29). -/
  abortCode : ErrCode
deriving DecidableEq, Repr

/-- The block after its reset event: every element at the value of R37 (R230). -/
def Block.reset : Block where
  buf       := []
  nstage    := []
  opa       := 0
  opb       := 0
  opc       := 0
  res       := 0
  mode      := .idle
  err       := .ok
  abortCode := .ok

/-- How many bits a host access moves. Only `word` is admitted (20_memory.md R53). -/
inductive AccessSize where
  | byte
  | half
  | word
  | double
deriving DecidableEq, Repr

/-- What can happen to the block from outside: a host register access (00_scope.md R4) or the
hardware reset (R230; log 4). An access of another width than 32 bits is refused before its data
matters, so `data` is a word (log 15). -/
inductive Event where
  /-- The host writes `data` at a bus address. -/
  | write (addr : Nat) (size : AccessSize) (data : Word)
  /-- The host reads at a bus address. -/
  | read (addr : Nat) (size : AccessSize)
  /-- The hardware reset event (R230). -/
  | reset
deriving DecidableEq, Repr

/-- The block and the host's side of it. The spec keeps the host's action list outside the block
(R20, R34, 92 D30): it stands here beside the block, not in it. -/
structure State where
  /-- The block (R20). -/
  blk     : Block
  /-- The host actions and resets still to come, oldest first. MODEL's own field (log 1). -/
  pending : List Event
  /-- The words that host reads returned, oldest first (30_encoding.md R90: "the listing shows the
  value read"). MODEL's own field (log 2). -/
  listing : List Word
deriving DecidableEq, Repr

/-- The state right after reset: the block as R37 and R230 say, no host action pending and nothing
read yet (DESIGN CHOICE, logs 1 and 2). -/
def State.reset : State where
  blk     := Block.reset
  pending := []
  listing := []

/-- A fault that stops the block. There is none: an error is a change of state (60_exceptions.md
R206) and "no command can fail to complete" (R238). Nobody raises a fault (log 12); unsafe only if
the hardware could stop, which the spec excludes. -/
inductive Fault where
deriving DecidableEq, Repr

/-- Why the model has no step. Every one of these is safe: a refused access has no run (92 D2). -/
inductive Refusal where
  /-- Raised by an arm of `exec` for an instruction with no meaning yet; no arm raises it. Safe. -/
  | notModelled (mnemonic : String)
  /-- Raised by the host bus for an access that does not move 32 bits (20_memory.md R53). Safe. -/
  | accessWidth (size : AccessSize)
  /-- Raised by the host bus for an address outside 0x000..0xFFC (R53). Safe. -/
  | addressOutOfRange (addr : Nat)
  /-- Raised by the host bus for an address that is no multiple of 4 (R53). Safe. -/
  | misalignedAddress (addr : Nat)
deriving DecidableEq, Repr

end Sys2Proof.Machine
end

