-- ==== Sys2Proof/Machine/Ops.lean ====
section
/-! DEFINITION. The named operations over memory and registers: byte access to BUF and NSTAGE
(20_memory.md R50, R59), error entry (60_exceptions.md R206), and the command cycle after decode
(30_encoding.md R86, R87). -/

namespace Sys2Proof.Machine

/-- What an unlisted offset reads as: 0x00, the value of every byte of BUF and NSTAGE after reset
(R37) and of BUF when a build starts (R141). -/
def Memory.unlisted : Byte := 0x00

/-- One byte of a memory: `b[a]` of 00_scope.md R10. -/
def Memory.read : Memory → Nat → Byte
  | [], _ => Memory.unlisted
  | (k, x) :: m, a => if k = a then x else Memory.read m a

/-- The memory without the cell of an offset. -/
def Memory.drop : Memory → Nat → Memory
  | [], _ => []
  | (k, x) :: m, a => if k = a then Memory.drop m a else (k, x) :: Memory.drop m a

/-- A cell put before the first cell of a greater offset. -/
def Memory.put : Memory → Nat → Byte → Memory
  | [], a, b => [(a, b)]
  | (k, x) :: m, a, b => if a < k then (a, b) :: (k, x) :: m else (k, x) :: Memory.put m a b

/-- `m with [a] = b` (R10). Writing the unlisted value removes the cell, which keeps the canonical
form. -/
def Memory.write (m : Memory) (a : Nat) (b : Byte) : Memory :=
  if b = Memory.unlisted then Memory.drop m a else Memory.put (Memory.drop m a) a b

/-- The canonical form from a lowest offset on: offsets strictly rising and below the size, no cell
holding the unlisted value. -/
def Memory.wfFrom : Nat → Nat → Memory → Bool
  | _, _, [] => true
  | lo, size, (k, x) :: m =>
    decide (lo ≤ k) && decide (k < size) && decide (x ≠ Memory.unlisted) &&
      Memory.wfFrom (k + 1) size m

/-- The canonical form of a memory of `size` bytes: nothing is listed at or past `size`, which is
how "no access, command or mode changes that length" (R76) is said of the list. -/
def Memory.wf (size : Nat) (m : Memory) : Bool :=
  Memory.wfFrom 0 size m

/-- Every byte 0x00: the "freshly zeroed buffer" of R141 and R206. -/
def Memory.zeroed : Memory := []

/-- `MemRead(off, 4)`: big-endian, the most significant byte first, composed "byte-by-byte with
explicit shifts" (R11, R59). -/
def Memory.readBE32 (m : Memory) (off : Nat) : Word :=
  ((m.read off).setWidth 32 <<< 24) ||| ((m.read (off + 1)).setWidth 32 <<< 16) |||
    ((m.read (off + 2)).setWidth 32 <<< 8) ||| (m.read (off + 3)).setWidth 32

/-- `MemWrite(off, 4, w)`: big-endian (R11, R59). -/
def Memory.writeBE32 (m : Memory) (off : Nat) (w : Word) : Memory :=
  (((m.write off (w.extractLsb' 24 8)).write (off + 1) (w.extractLsb' 16 8)).write (off + 2)
    (w.extractLsb' 8 8)).write (off + 3) (w.extractLsb' 0 8)

/-- Bytes `start` to `start + n - 1` written with `f 0` to `f (n - 1)` (the loop of R143). -/
def Memory.fill (m : Memory) (start : Nat) : Nat → (Nat → Byte) → Memory
  | 0, _ => m
  | n + 1, f => (Memory.fill m start n f).write (start + n) (f n)

/-- The code an error leaves in ERR (R200). -/
def CmdError.code : CmdError → ErrCode
  | .outOfRange => .outOfRange
  | .invalidLayout => .invalidLayout
  | .illegalCommand => .illegalCommand

/-- Error entry, `Fail(c)` of R206: the block's one way to take an exception. A build is aborted; in
IDLE and SEALED only ERR changes. There is no return from it (R209). -/
def Block.fail (b : Block) (e : CmdError) : Block :=
  match b.mode with
  | .building => { b with buf := Memory.zeroed, mode := .idle, err := e.code, abortCode := e.code }
  | .idle => { b with err := e.code }
  | .sealed => { b with err := e.code }

/-- `commit(r); ERR <- 0` of R87: the body's writes take effect together (R66). -/
def Block.commit (b : Block) : Block :=
  { b with err := .ok }

/-- Legal in IDLE, BUILDING and SEALED (R84, "I B S"). -/
def anyMode : Mode → Bool
  | .idle => true
  | .building => true
  | .sealed => true

/-- Legal in BUILDING only (R84, "B"). -/
def buildingOnly : Mode → Bool
  | .idle => false
  | .building => true
  | .sealed => false

/-- Legal in SEALED only (R84, "S"). -/
def sealedOnly : Mode → Bool
  | .idle => false
  | .building => false
  | .sealed => true

/-- The command cycle of R87 after decode: the mode check, the body, then commit or error entry. -/
def Block.command (b : Block) (legal : Mode → Bool) (body : Block → Except CmdError Block) : Block :=
  if legal b.mode then
    match body b with
    | .ok b' => b'.commit
    | .error e => b.fail e
  else b.fail .illegalCommand

/-- The command cycle as a step: it always completes (R66, R238). -/
def State.command (s : State) (legal : Mode → Bool) (body : Block → Except CmdError Block) :
    Host.Outcome State Fault Refusal :=
  .next { s with blk := s.blk.command legal body }

/-- Error entry as a step. -/
def State.fail (s : State) (e : CmdError) : State :=
  { s with blk := s.blk.fail e }

/-- The body of a write command: `BUF <- m`, or the error. -/
def Block.putBuf (b : Block) : Except CmdError Memory → Except CmdError Block
  | .ok m => .ok { b with buf := m }
  | .error e => .error e

/-- The body of a value-producing command: `RES <- tc_64(v)` (R26), or the error. -/
def Block.putRes (b : Block) : Except CmdError Int → Except CmdError Block
  | .ok v => .ok { b with res := BitVec.ofInt 64 v }
  | .error e => .error e

/-- The host's read returned a word: the listing shows it (R90). -/
def State.list (s : State) (w : Word) : State :=
  { s with listing := s.listing ++ [w] }

end Sys2Proof.Machine
end

