-- ==== Sys2Proof/Machine/Operands.lean ====
section
/-! DEFINITION. Operands: the signed operand registers (10_state.md R25), the range checks made on
them (60_exceptions.md R201), the halves of a 64-bit register (20_memory.md R54), the staged name
(41_builder.md R143). -/

namespace Sys2Proof.Machine

/-- `sOPA = sext_64(OPA)` (R25). -/
def Block.sOPA (b : Block) : Int := b.opa.toInt

/-- `sOPB` (R25). -/
def Block.sOPB (b : Block) : Int := b.opb.toInt

/-- `sOPC` (R25). -/
def Block.sOPC (b : Block) : Int := b.opc.toInt

/-- In the signed 32-bit range (R201). -/
def inInt32 (v : Int) : Bool := decide (Config.int32Min ≤ v ∧ v ≤ Config.int32Max)

/-- In 0..1023 (R201). -/
def inU10 (v : Int) : Bool := decide (0 ≤ v ∧ v ≤ Config.u10Max)

/-- In 0..15 (R201). -/
def inU4 (v : Int) : Bool := decide (0 ≤ v ∧ v ≤ Config.u4Max)

/-- One of the type codes 0, 1, 2 (R155, R201). -/
def isTypeCode (v : Int) : Bool := decide (0 ≤ v ∧ v ≤ Config.typeMax)

/-- `value << shift` sets no bit outside a byte mask, for a value that is not negative (R110, D17). -/
def fitsMask (mask : Byte) (sh : Nat) (v : Int) : Bool :=
  decide (0 ≤ v) && decide (v.toNat <<< sh ≤ 255) && decide (BitVec.ofNat 8 (v.toNat <<< sh) &&& ~~~mask = 0)

/-- Bits 31:0 of a 64-bit register (R54). -/
def loHalf (v : DWord) : Word := v.extractLsb' 0 32

/-- Bits 63:32 of a 64-bit register (R54). -/
def hiHalf (v : DWord) : Word := v.extractLsb' 32 32

/-- A write of the LO half leaves bits 63:32 unchanged (R54). -/
def setLo (v : DWord) (d : Word) : DWord := (v &&& 0xFFFFFFFF00000000#64) ||| d.setWidth 64

/-- A write of the HI half leaves bits 31:0 unchanged (R54). -/
def setHi (v : DWord) (d : Word) : DWord := (v &&& 0x00000000FFFFFFFF#64) ||| (d.setWidth 64 <<< 32)

/-- Byte `k` of the name slot for a name of `len` bytes: the byte given, or the zero padding (R143). -/
def paddedName (len : Nat) (bytes : Nat → Byte) (k : Nat) : Byte :=
  if k < len then bytes k else 0x00

end Sys2Proof.Machine
end

