-- ==== Sys2Proof/Machine/Primitives.lean ====
section
/-! DEFINITION. The nine codec primitives of 40_codec.md R100 to R110, as pure functions on a
buffer. The value check comes before the bounds check (60_exceptions.md R205; 92 D13, log 7). -/

namespace Sys2Proof.Machine

/-- The bounds check of R101: an access of `n` bytes at `off` fits in the buffer. -/
def fitsBuf (off n : Nat) : Bool := decide (off + n ≤ Config.bufLen)

/-- `cdc_wr32` (R102). -/
def cdcWr32 (b : Memory) (off : Nat) (v : Int) : Except CmdError Memory :=
  if !inInt32 v then .error .outOfRange
  else if !fitsBuf off 4 then .error .invalidLayout
  else .ok (b.writeBE32 off (BitVec.ofInt 32 v))

/-- `cdc_rd32` (R103). -/
def cdcRd32 (b : Memory) (off : Nat) : Except CmdError Int :=
  if !fitsBuf off 4 then .error .invalidLayout
  else .ok (b.readBE32 off).toInt

/-- The byte after a 10-bit value's low byte: bits 5:4 take bits 9:8 of the value, the rest is kept
(R104). -/
def merge10 (old : Byte) (v : BitVec 10) : Byte :=
  (old &&& 0xCF#8) ||| ((v.extractLsb' 8 2).setWidth 8 <<< 4)

/-- `cdc_wr10` (R104): the low byte at `off`, bits 9:8 in bits 5:4 of `off + 1` (R60). -/
def cdcWr10 (b : Memory) (off : Nat) (v : Int) : Except CmdError Memory :=
  if !inU10 v then .error .outOfRange
  else if !fitsBuf off 2 then .error .invalidLayout
  else
    let w := BitVec.ofInt 10 v
    .ok ((b.write off (w.extractLsb' 0 8)).write (off + 1) (merge10 (b.read (off + 1)) w))

/-- The 10-bit value of two bytes, `(high << 8) | low` with high = bits 5:4 of the second (R105). -/
def value10 (low next : Byte) : BitVec 10 :=
  (((next >>> 4) &&& 0x03#8).setWidth 10 <<< 8) ||| low.setWidth 10

/-- `cdc_rd10` (R105). -/
def cdcRd10 (b : Memory) (off : Nat) : Except CmdError Int :=
  if !fitsBuf off 2 then .error .invalidLayout
  else .ok ((value10 (b.read off) (b.read (off + 1))).toNat : Int)

/-- One nibble of a byte replaced (R106). -/
def mergeNib (old : Byte) (hi : Bool) (v : BitVec 4) : Byte :=
  if hi then (old &&& 0x0F#8) ||| (v.setWidth 8 <<< 4) else (old &&& 0xF0#8) ||| v.setWidth 8

/-- `cdc_wrnib` (R106). -/
def cdcWrnib (b : Memory) (off : Nat) (v : Int) (hi : Bool) : Except CmdError Memory :=
  if !inU4 v then .error .outOfRange
  else if !fitsBuf off 1 then .error .invalidLayout
  else .ok (b.write off (mergeNib (b.read off) hi (BitVec.ofInt 4 v)))

/-- `cdc_rdnib` (R107). -/
def cdcRdnib (b : Memory) (off : Nat) (hi : Bool) : Except CmdError Int :=
  if !fitsBuf off 1 then .error .invalidLayout
  else if hi then .ok ((b.read off >>> 4).toNat : Int)
  else .ok ((b.read off &&& 0x0F#8).toNat : Int)

/-- `cdc_setbit` (R108). -/
def cdcSetbit (b : Memory) (off : Nat) (i : Nat) : Except CmdError Memory :=
  if !fitsBuf off 1 then .error .invalidLayout
  else .ok (b.write off (b.read off ||| ((1 : Byte) <<< i)))

/-- `cdc_getbit` (R109). -/
def cdcGetbit (b : Memory) (off : Nat) (i : Nat) : Except CmdError Int :=
  if !fitsBuf off 1 then .error .invalidLayout
  else .ok (((b.read off >>> i) &&& 0x01#8).toNat : Int)

/-- `cdc_setmask` (R110). -/
def cdcSetmask (b : Memory) (off : Nat) (mask : Byte) (sh : Nat) (v : Int) :
    Except CmdError Memory :=
  if !fitsMask mask sh v then .error .outOfRange
  else if !fitsBuf off 1 then .error .invalidLayout
  else .ok (b.write off ((b.read off &&& ~~~mask) ||| BitVec.ofNat 8 (v.toNat <<< sh)))

end Sys2Proof.Machine
end

