-- ==== Sys2Proof/Machine/Accessors.lean ====
section
/-! DEFINITION. The fifteen accessors (42_accessors.md R170 to R185): each decodes one field of BUF
into RES and is legal in SEALED only (30_encoding.md R84; 92 D24). -/

namespace Sys2Proof.Machine

/-- The least offset from `k` on, within `n` bytes, that holds 0x00, or `k + n` (R171). -/
def firstZero (b : Memory) (k : Nat) : Nat → Nat
  | 0 => k
  | n + 1 => if b.read k = 0x00 then k else firstZero b (k + 1) n

/-- The length of the name: the scan of the 42-byte slot (R171). -/
def nameLength (b : Memory) : Nat := firstZero b Layout.nameOff Config.nameMax

/-- The Type code, `(BUF[61] & 0xC0) >> 6` (R185). -/
def typeCode (b : Memory) : Nat :=
  ((b.read Layout.flagsOff &&& Layout.typeMask) >>> Layout.typeShift).toNat

/-- GET.NAME (R171): the length; the host reads the bytes through BUFWIN. -/
def execGetName (s : State) : Host.Outcome State Fault Refusal :=
  s.command sealedOnly fun b => b.putRes (.ok (nameLength b.buf : Int))

/-- GET.X (R172). -/
def execGetX (s : State) : Host.Outcome State Fault Refusal :=
  s.command sealedOnly fun b => b.putRes (cdcRd32 b.buf Layout.xOff)

/-- GET.Y (R173). -/
def execGetY (s : State) : Host.Outcome State Fault Refusal :=
  s.command sealedOnly fun b => b.putRes (cdcRd32 b.buf Layout.yOff)

/-- GET.Z (R174). -/
def execGetZ (s : State) : Host.Outcome State Fault Refusal :=
  s.command sealedOnly fun b => b.putRes (cdcRd32 b.buf Layout.zOff)

/-- GET.GOLD (R175). -/
def execGetGold (s : State) : Host.Outcome State Fault Refusal :=
  s.command sealedOnly fun b => b.putRes (cdcRd32 b.buf Layout.goldOff)

/-- GET.MANA (R176). -/
def execGetMana (s : State) : Host.Outcome State Fault Refusal :=
  s.command sealedOnly fun b => b.putRes (cdcRd10 b.buf Layout.manaOff)

/-- GET.HEALTH (R177). -/
def execGetHealth (s : State) : Host.Outcome State Fault Refusal :=
  s.command sealedOnly fun b => b.putRes (cdcRd10 b.buf Layout.healthOff)

/-- GET.RESPECT (R178). -/
def execGetRespect (s : State) : Host.Outcome State Fault Refusal :=
  s.command sealedOnly fun b => b.putRes (cdcRdnib b.buf Layout.respectStrengthOff true)

/-- GET.STRENGTH (R179). -/
def execGetStrength (s : State) : Host.Outcome State Fault Refusal :=
  s.command sealedOnly fun b => b.putRes (cdcRdnib b.buf Layout.respectStrengthOff false)

/-- GET.EXPERIENCE (R180). -/
def execGetExperience (s : State) : Host.Outcome State Fault Refusal :=
  s.command sealedOnly fun b => b.putRes (cdcRdnib b.buf Layout.experienceLevelOff true)

/-- GET.LEVEL (R181). -/
def execGetLevel (s : State) : Host.Outcome State Fault Refusal :=
  s.command sealedOnly fun b => b.putRes (cdcRdnib b.buf Layout.experienceLevelOff false)

/-- GET.HOUSE (R182). -/
def execGetHouse (s : State) : Host.Outcome State Fault Refusal :=
  s.command sealedOnly fun b => b.putRes (cdcGetbit b.buf Layout.flagsOff Layout.houseBit)

/-- GET.GUN (R183). -/
def execGetGun (s : State) : Host.Outcome State Fault Refusal :=
  s.command sealedOnly fun b => b.putRes (cdcGetbit b.buf Layout.flagsOff Layout.gunBit)

/-- GET.FAMILY (R184). -/
def execGetFamily (s : State) : Host.Outcome State Fault Refusal :=
  s.command sealedOnly fun b => b.putRes (cdcGetbit b.buf Layout.flagsOff Layout.familyBit)

/-- GET.TYPE (R185): no read primitive for masked bits exists, so the bits are read directly. -/
def execGetType (s : State) : Host.Outcome State Fault Refusal :=
  s.command sealedOnly fun b => b.putRes (.ok (typeCode b.buf : Int))

end Sys2Proof.Machine
end

