-- ==== Sys2Proof/Machine/Flags.lean ====
section
/-! DEFINITION. The status outputs: the codes of MODE, ERR and ABORT_CODE and the STATUS and INFO
words (10_state.md R27 to R31, 60_exceptions.md R200), and the seal condition (41_builder.md R156). -/

namespace Sys2Proof.Machine

/-- The code of a mode (R27). -/
def Mode.bits : Mode → BitVec 2
  | .idle => 0
  | .building => 1
  | .sealed => 2

/-- The code of ERR or ABORT_CODE (R200). -/
def ErrCode.bits : ErrCode → BitVec 2
  | .ok => 0
  | .outOfRange => 1
  | .invalidLayout => 2
  | .illegalCommand => 3

/-- The STATUS word (R30): MODE in bits 1:0, ERR in 5:4, ABORT_CODE in 9:8, the rest 0. -/
def Block.statusWord (b : Block) : Word :=
  b.mode.bits.setWidth 32 ||| (b.err.bits.setWidth 32 <<< 4) |||
    (b.abortCode.bits.setWidth 32 <<< 8)

/-- The INFO constant (R31): BUF_LEN in bits 7:0, NAME_MAX in bits 15:8. -/
def infoWord : Word :=
  BitVec.ofNat 32 Config.bufLen ||| (BitVec.ofNat 32 Config.nameMax <<< 8)

/-- `SealOK(b)` of R156. -/
def sealOk (m : Memory) : Bool :=
  !(m.read Layout.flagsOff).getLsbD Layout.unusedBit &&
  (m.read Layout.manaHighOff &&& Layout.manaHighReserved) == 0 &&
  (m.read Layout.flagsOff).extractLsb' Layout.typeShift 2 != 3

end Sys2Proof.Machine
end

