-- ==== Sys2Proof/Machine/Builder.lean ====
section
/-! DEFINITION. The record builder: BEGIN, SEAL and the thirteen configuration steps (41_builder.md
R141 to R156). Each step is a pure function on the buffer under construction, which `build` (R140)
shares, and a command that applies it to BUF. -/

namespace Sys2Proof.Machine

/-- The Name step (R143): the name zero-padded to the whole slot. -/
def stepName (len : Nat) (bytes : Nat → Byte) (b : Memory) : Except CmdError Memory :=
  if len > Config.nameMax then .error .outOfRange
  else .ok (b.fill Layout.nameOff Config.nameMax (paddedName len bytes))

/-- The Coordinates step (R144): all three values are checked before any byte is written. -/
def stepCoords (x y z : Int) (b : Memory) : Except CmdError Memory :=
  if !(inInt32 x && inInt32 y && inInt32 z) then .error .outOfRange
  else
    (cdcWr32 b Layout.xOff x).bind fun b1 =>
      (cdcWr32 b1 Layout.yOff y).bind fun b2 => cdcWr32 b2 Layout.zOff z

/-- The Gold step (R145). -/
def stepGold (v : Int) (b : Memory) : Except CmdError Memory := cdcWr32 b Layout.goldOff v

/-- The Mana step (R146). -/
def stepMana (v : Int) (b : Memory) : Except CmdError Memory := cdcWr10 b Layout.manaOff v

/-- The Health step (R147). -/
def stepHealth (v : Int) (b : Memory) : Except CmdError Memory := cdcWr10 b Layout.healthOff v

/-- The Respect step (R148). -/
def stepRespect (v : Int) (b : Memory) : Except CmdError Memory :=
  cdcWrnib b Layout.respectStrengthOff v true

/-- The Strength step (R149). -/
def stepStrength (v : Int) (b : Memory) : Except CmdError Memory :=
  cdcWrnib b Layout.respectStrengthOff v false

/-- The Experience step (R150). -/
def stepExperience (v : Int) (b : Memory) : Except CmdError Memory :=
  cdcWrnib b Layout.experienceLevelOff v true

/-- The Level step (R151). -/
def stepLevel (v : Int) (b : Memory) : Except CmdError Memory :=
  cdcWrnib b Layout.experienceLevelOff v false

/-- The HouseFlag step (R152). -/
def stepHouse (b : Memory) : Except CmdError Memory := cdcSetbit b Layout.flagsOff Layout.houseBit

/-- The GunFlag step (R153). -/
def stepGun (b : Memory) : Except CmdError Memory := cdcSetbit b Layout.flagsOff Layout.gunBit

/-- The FamilyFlag step (R154). -/
def stepFamily (b : Memory) : Except CmdError Memory := cdcSetbit b Layout.flagsOff Layout.familyBit

/-- The Type step (R155): only 0, 1 and 2, although the primitive would take 3. -/
def stepType (v : Int) (b : Memory) : Except CmdError Memory :=
  if !isTypeCode v then .error .outOfRange
  else cdcSetmask b Layout.flagsOff Layout.typeMask Layout.typeShift v

/-- BEGIN (R141): a freshly zeroed buffer; legal in every mode (92 D26). -/
def execBeginBuild (s : State) : Host.Outcome State Fault Refusal :=
  s.command anyMode fun b =>
    .ok { b with buf := Memory.zeroed, mode := .building, abortCode := .ok }

/-- SEAL (R156). -/
def execSealRecord (s : State) : Host.Outcome State Fault Refusal :=
  s.command buildingOnly fun b =>
    if sealOk b.buf then .ok { b with mode := .sealed } else .error .invalidLayout

/-- WITH.NAME len (R143); the name bytes are NSTAGE[0..len-1]. -/
def execWithName (len : Nat) (s : State) : Host.Outcome State Fault Refusal :=
  s.command buildingOnly fun b => b.putBuf (stepName len b.nstage.read b.buf)

/-- WITH.COORDS (R144). -/
def execWithCoords (s : State) : Host.Outcome State Fault Refusal :=
  s.command buildingOnly fun b => b.putBuf (stepCoords b.sOPA b.sOPB b.sOPC b.buf)

/-- WITH.GOLD (R145). -/
def execWithGold (s : State) : Host.Outcome State Fault Refusal :=
  s.command buildingOnly fun b => b.putBuf (stepGold b.sOPA b.buf)

/-- WITH.MANA (R146). -/
def execWithMana (s : State) : Host.Outcome State Fault Refusal :=
  s.command buildingOnly fun b => b.putBuf (stepMana b.sOPA b.buf)

/-- WITH.HEALTH (R147). -/
def execWithHealth (s : State) : Host.Outcome State Fault Refusal :=
  s.command buildingOnly fun b => b.putBuf (stepHealth b.sOPA b.buf)

/-- WITH.RESPECT (R148). -/
def execWithRespect (s : State) : Host.Outcome State Fault Refusal :=
  s.command buildingOnly fun b => b.putBuf (stepRespect b.sOPA b.buf)

/-- WITH.STRENGTH (R149). -/
def execWithStrength (s : State) : Host.Outcome State Fault Refusal :=
  s.command buildingOnly fun b => b.putBuf (stepStrength b.sOPA b.buf)

/-- WITH.EXPERIENCE (R150). -/
def execWithExperience (s : State) : Host.Outcome State Fault Refusal :=
  s.command buildingOnly fun b => b.putBuf (stepExperience b.sOPA b.buf)

/-- WITH.LEVEL (R151). -/
def execWithLevel (s : State) : Host.Outcome State Fault Refusal :=
  s.command buildingOnly fun b => b.putBuf (stepLevel b.sOPA b.buf)

/-- WITH.HOUSE (R152); OPA is not read. -/
def execWithHouse (s : State) : Host.Outcome State Fault Refusal :=
  s.command buildingOnly fun b => b.putBuf (stepHouse b.buf)

/-- WITH.GUN (R153). -/
def execWithGun (s : State) : Host.Outcome State Fault Refusal :=
  s.command buildingOnly fun b => b.putBuf (stepGun b.buf)

/-- WITH.FAMILY (R154). -/
def execWithFamily (s : State) : Host.Outcome State Fault Refusal :=
  s.command buildingOnly fun b => b.putBuf (stepFamily b.buf)

/-- WITH.TYPE (R155). -/
def execWithType (s : State) : Host.Outcome State Fault Refusal :=
  s.command buildingOnly fun b => b.putBuf (stepType b.sOPA b.buf)

end Sys2Proof.Machine
end

