-- ==== Sys2Proof/Machine/Codec.lean ====
section
/-! DEFINITION. The nine raw codec commands (40_codec.md R113 to R121). Writes are legal in BUILDING
only, reads in every mode (30_encoding.md R84; 92 D23). -/

namespace Sys2Proof.Machine

/-- WR32 off (R113). -/
def execWr32 (off : Nat) (s : State) : Host.Outcome State Fault Refusal :=
  s.command buildingOnly fun b => b.putBuf (cdcWr32 b.buf off b.sOPA)

/-- RD32 off (R114). -/
def execRd32 (off : Nat) (s : State) : Host.Outcome State Fault Refusal :=
  s.command anyMode fun b => b.putRes (cdcRd32 b.buf off)

/-- WR10 off (R115). -/
def execWr10 (off : Nat) (s : State) : Host.Outcome State Fault Refusal :=
  s.command buildingOnly fun b => b.putBuf (cdcWr10 b.buf off b.sOPA)

/-- RD10 off (R116). -/
def execRd10 (off : Nat) (s : State) : Host.Outcome State Fault Refusal :=
  s.command anyMode fun b => b.putRes (cdcRd10 b.buf off)

/-- WRNIB off, hi or lo (R117). -/
def execWrnib (off : Nat) (hi : Bool) (s : State) : Host.Outcome State Fault Refusal :=
  s.command buildingOnly fun b => b.putBuf (cdcWrnib b.buf off b.sOPA hi)

/-- RDNIB off, hi or lo (R118). -/
def execRdnib (off : Nat) (hi : Bool) (s : State) : Host.Outcome State Fault Refusal :=
  s.command anyMode fun b => b.putRes (cdcRdnib b.buf off hi)

/-- SETBIT off, i (R119). -/
def execSetbit (off : Nat) (sh : Nat) (s : State) : Host.Outcome State Fault Refusal :=
  s.command buildingOnly fun b => b.putBuf (cdcSetbit b.buf off sh)

/-- GETBIT off, i (R120). -/
def execGetbit (off : Nat) (sh : Nat) (s : State) : Host.Outcome State Fault Refusal :=
  s.command anyMode fun b => b.putRes (cdcGetbit b.buf off sh)

/-- SETMASK off, mask, sh (R121). -/
def execSetmask (off : Nat) (mask : Byte) (sh : Nat) (s : State) :
    Host.Outcome State Fault Refusal :=
  s.command buildingOnly fun b => b.putBuf (cdcSetmask b.buf off mask sh b.sOPA)

end Sys2Proof.Machine
end

