-- ==== Sys2Proof/Machine/Dispatch.lean ====
section
/-! DEFINITION. One arm per command: what `exec` does with a decoded command (30_encoding.md R84). -/

namespace Sys2Proof.Machine

def exec (i : Instr) (s : State) : Host.Outcome State Fault Refusal :=
  match i with
  | .beginBuild => Sys2Proof.Machine.execBeginBuild s
  | .sealRecord => Sys2Proof.Machine.execSealRecord s
  | .wr32 off => Sys2Proof.Machine.execWr32 off s
  | .rd32 off => Sys2Proof.Machine.execRd32 off s
  | .wr10 off => Sys2Proof.Machine.execWr10 off s
  | .rd10 off => Sys2Proof.Machine.execRd10 off s
  | .wrnib off hi => Sys2Proof.Machine.execWrnib off hi s
  | .rdnib off hi => Sys2Proof.Machine.execRdnib off hi s
  | .setbit off sh => Sys2Proof.Machine.execSetbit off sh s
  | .getbit off sh => Sys2Proof.Machine.execGetbit off sh s
  | .setmask off mask sh => Sys2Proof.Machine.execSetmask off mask sh s
  | .withName len => Sys2Proof.Machine.execWithName len s
  | .withCoords => Sys2Proof.Machine.execWithCoords s
  | .withGold => Sys2Proof.Machine.execWithGold s
  | .withMana => Sys2Proof.Machine.execWithMana s
  | .withHealth => Sys2Proof.Machine.execWithHealth s
  | .withRespect => Sys2Proof.Machine.execWithRespect s
  | .withStrength => Sys2Proof.Machine.execWithStrength s
  | .withExperience => Sys2Proof.Machine.execWithExperience s
  | .withLevel => Sys2Proof.Machine.execWithLevel s
  | .withHouse => Sys2Proof.Machine.execWithHouse s
  | .withGun => Sys2Proof.Machine.execWithGun s
  | .withFamily => Sys2Proof.Machine.execWithFamily s
  | .withType => Sys2Proof.Machine.execWithType s
  | .getName => Sys2Proof.Machine.execGetName s
  | .getX => Sys2Proof.Machine.execGetX s
  | .getY => Sys2Proof.Machine.execGetY s
  | .getZ => Sys2Proof.Machine.execGetZ s
  | .getGold => Sys2Proof.Machine.execGetGold s
  | .getMana => Sys2Proof.Machine.execGetMana s
  | .getHealth => Sys2Proof.Machine.execGetHealth s
  | .getRespect => Sys2Proof.Machine.execGetRespect s
  | .getStrength => Sys2Proof.Machine.execGetStrength s
  | .getExperience => Sys2Proof.Machine.execGetExperience s
  | .getLevel => Sys2Proof.Machine.execGetLevel s
  | .getHouse => Sys2Proof.Machine.execGetHouse s
  | .getGun => Sys2Proof.Machine.execGetGun s
  | .getFamily => Sys2Proof.Machine.execGetFamily s
  | .getType => Sys2Proof.Machine.execGetType s

end Sys2Proof.Machine
end

