-- ==== Sys2Proof/Machine/Bus.lean ====
section
/-! DEFINITION. The host bus: the register map of 20_memory.md R51, what a host read returns and a
host write does (R52 to R56, 30_encoding.md R87), and one event of the outside world as a step. -/

namespace Sys2Proof.Machine

/-- A register of the map R51. -/
inductive HostReg where
  | info
  | status
  | cmd
  | opaLo
  | opaHi
  | opbLo
  | opbHi
  | opcLo
  | opcHi
  | resLo
  | resHi
  /-- BUFWIN[k], k = 0..63 (R55). -/
  | bufwin (k : Nat)
  /-- NSTAGE[k], k = 0..41 (R56). -/
  | nstage (k : Nat)
  /-- A reserved address. -/
  | reserved
deriving DecidableEq, Repr

/-- The register at an aligned address (R51). -/
def HostReg.ofAddr (a : Nat) : HostReg :=
  if a = 0x000 then .info
  else if a = 0x004 then .status
  else if a = 0x008 then .cmd
  else if a = 0x010 then .opaLo
  else if a = 0x014 then .opaHi
  else if a = 0x018 then .opbLo
  else if a = 0x01C then .opbHi
  else if a = 0x020 then .opcLo
  else if a = 0x024 then .opcHi
  else if a = 0x028 then .resLo
  else if a = 0x02C then .resHi
  else if 0x100 ≤ a ∧ a < 0x200 then .bufwin ((a - 0x100) / 4)
  else if 0x200 ≤ a ∧ a < 0x2A8 then .nstage ((a - 0x200) / 4)
  else .reserved

/-- The address of CMD (R51). -/
def cmdAddr : Nat := 0x008

/-- The address of a register, the inverse of `ofAddr`; a reserved address has no name, so the first
of them stands for all. -/
def HostReg.addr : HostReg → Nat
  | .info => 0x000
  | .status => 0x004
  | .cmd => cmdAddr
  | .opaLo => 0x010
  | .opaHi => 0x014
  | .opbLo => 0x018
  | .opbHi => 0x01C
  | .opcLo => 0x020
  | .opcHi => 0x024
  | .resLo => 0x028
  | .resHi => 0x02C
  | .bufwin k => 0x100 + 4 * k
  | .nstage k => 0x200 + 4 * k
  | .reserved => 0x00C

/-- What the bus refuses (R53): any access but an aligned 32-bit one in 0x000..0xFFC. DESIGN CHOICE
(log 5): which reason is named when several hold. -/
def accessRefusal (addr : Nat) (size : AccessSize) : Option Refusal :=
  if size ≠ .word then some (.accessWidth size)
  else if Config.regSpaceSize ≤ addr then some (.addressOutOfRange addr)
  else if addr % 4 ≠ 0 then some (.misalignedAddress addr)
  else none

/-- The word a host read returns (R51, R54 to R56); CMD and reserved addresses read 0 (R32, R52). -/
def Block.readReg (b : Block) : HostReg → Word
  | .info => infoWord
  | .status => b.statusWord
  | .cmd => 0
  | .opaLo => loHalf b.opa
  | .opaHi => hiHalf b.opa
  | .opbLo => loHalf b.opb
  | .opbHi => hiHalf b.opb
  | .opcLo => loHalf b.opc
  | .opcHi => hiHalf b.opc
  | .resLo => loHalf b.res
  | .resHi => hiHalf b.res
  | .bufwin k => (b.buf.read k).setWidth 32
  | .nstage k => (b.nstage.read k).setWidth 32
  | .reserved => 0

/-- A host write to a register other than CMD: a read-only or reserved one ignores it (R52), an
operand half takes it (R54), NSTAGE takes its low byte (R56). CMD holds no state (R32); a write to
it runs `cmdWrite`. -/
def Block.writeReg (b : Block) (d : Word) : HostReg → Block
  | .info => b
  | .status => b
  | .cmd => b
  | .opaLo => { b with opa := setLo b.opa d }
  | .opaHi => { b with opa := setHi b.opa d }
  | .opbLo => { b with opb := setLo b.opb d }
  | .opbHi => { b with opb := setHi b.opb d }
  | .opcLo => { b with opc := setLo b.opc d }
  | .opcHi => { b with opc := setHi b.opc d }
  | .resLo => b
  | .resHi => b
  | .bufwin _ => b
  | .nstage k => { b with nstage := b.nstage.write k (d.extractLsb' 0 8) }
  | .reserved => b

/-- `Execute(w)` of R87: decode, then the command; an `Illegal` word fails (R85, R203). -/
def cmdWrite (w : Word) (s : State) : Host.Outcome State Fault Refusal :=
  match decode w with
  | .ok i => exec i s
  | .error _ => .next (s.fail .illegalCommand)

/-- A host write of a word at an address that the bus admits (R51, R87). -/
def hostWrite (addr : Nat) (d : Word) (s : State) : Host.Outcome State Fault Refusal :=
  if HostReg.ofAddr addr = .cmd then cmdWrite d s
  else .next { s with blk := s.blk.writeReg d (HostReg.ofAddr addr) }

/-- A host read at an address that the bus admits: the word goes to the listing; no read has a side
effect on the block (R52, R67). -/
def hostRead (addr : Nat) (s : State) : Host.Outcome State Fault Refusal :=
  .next (s.list (s.blk.readReg (HostReg.ofAddr addr)))

/-- One event of the outside world (R4, R53, R230). -/
def perform (e : Event) (s : State) : Host.Outcome State Fault Refusal :=
  match e with
  | .write addr size d =>
    match accessRefusal addr size with
    | some r => .refused r
    | none => hostWrite addr d s
  | .read addr size =>
    match accessRefusal addr size with
    | some r => .refused r
    | none => hostRead addr s
  | .reset => .next { s with blk := Block.reset }

/-- The next step of the machine: the oldest pending event happens (R68: host actions are totally
ordered). With none pending, nothing happens: all state persists (R217; DESIGN CHOICE, log 3). -/
def stepPending (s : State) : Host.Outcome State Fault Refusal :=
  match s.pending with
  | [] => .next s
  | e :: rest => perform e { s with pending := rest }

/-- A command write as an event. -/
def cmdEvent (w : Word) : Event := .write cmdAddr .word w

end Sys2Proof.Machine
end

