-- ==== Sys2Proof/Machine/Step.lean ====
section
/-! DEFINITION. One step of the machine: one host action or reset (00_scope.md R4). -/

namespace Sys2Proof.Machine

/-- One step: the oldest pending event happens. -/
def step (s : State) : Host.Outcome State Fault Refusal :=
  stepPending s

/-- The state in which the very next step runs the command whose word is `w`: the CMD write is the
next host action (30_encoding.md R87; log 14). Bits above `nbits` are 0. -/
def State.withFetchWord (s : State) (nbits w : Nat) : State :=
  { s with pending := cmdEvent (BitVec.ofNat 32 (w % 2 ^ nbits)) :: s.pending }

end Sys2Proof.Machine
end

