-- ==== Sys2Proof/Machine/Assembler.lean ====
section
/-! DEFINITION. The assembly language of 30_encoding.md R90 and R91: its lines, the host actions each
expands to, and the reading of a line's text. The lexical detail that R90 leaves open is log 13. -/

namespace Sys2Proof.Machine

/-- An operand register, for `lda`, `ldb` and `ldc` (R91). -/
inductive OpReg where
  | a
  | b
  | c
deriving DecidableEq, Repr

/-- A line of a program: one host action, one command or one pseudo-instruction (R90, R91). -/
inductive AsmLine where
  /-- `wr REG, DATA` (R90), REG as its address. -/
  | wr (addr : Nat) (data : Nat)
  /-- `rd REG` (R90). -/
  | rd (addr : Nat)
  /-- A command: a CMD write of its word (R90). -/
  | cmd (i : Instr)
  /-- `lda V`, `ldb V`, `ldc V` (R91). -/
  | load (r : OpReg) (v : Int)
  /-- `ldname "s"` (R91). -/
  | ldname (bytes : List Byte)
  /-- `name "s"` (R91). -/
  | name (bytes : List Byte)
  /-- `coords X, Y, Z` (R91). -/
  | coords (x y z : Int)
  /-- `lda V` and a command: `gold V`, `mana V`, `health V`, `respect V`, `strength V`,
  `experience V`, `level V`, `type V`, `wr32i`, `wr10i`, `wrnibi`, `setmaski` (R91). -/
  | withValue (i : Instr) (v : Int)
  /-- `status` (R91). -/
  | status
  /-- `res` (R91). -/
  | res
deriving DecidableEq, Repr

/-- V is a signed value in -2^63..2^63-1 (R91). -/
def inInt64 (v : Int) : Bool := decide (-9223372036854775808 ≤ v ∧ v ≤ 9223372036854775807)

/-- The registers of the LO and HI halves of an operand register (R51). -/
def OpReg.halves : OpReg → HostReg × HostReg
  | .a => (.opaLo, .opaHi)
  | .b => (.opbLo, .opbHi)
  | .c => (.opcLo, .opcHi)

/-- A word write to a register, as an event. -/
def regWrite (r : HostReg) (d : Word) : Event := .write r.addr .word d

/-- `lda V`: the LO half, then the HI half, of `tc_64(V)` (R91). -/
def loadEvents (r : OpReg) (v : Int) : List Event :=
  let t : DWord := BitVec.ofInt 64 v
  [regWrite r.halves.1 (loHalf t), regWrite r.halves.2 (hiHalf t)]

/-- `ldname "s"`: one NSTAGE write a byte, from index `k` on (R91). -/
def stageEvents (k : Nat) : List Byte → List Event
  | [] => []
  | x :: xs => regWrite (.nstage k) (x.setWidth 32) :: stageEvents (k + 1) xs

/-- The CMD write of a command (R90). -/
def instrEvent (i : Instr) : Event := cmdEvent (encode i)

/-- The events if the operands fit (R90: "An assembler rejects an operand that does not fit its
field"). -/
def whenFits (ok : Bool) (es : List Event) : Option (List Event) := if ok then some es else none

/-- The host actions of a line (R90, R91), or none where the assembler rejects it. -/
def AsmLine.expand : AsmLine → Option (List Event)
  | .wr addr data => whenFits (decide (data < 4294967296)) [.write addr .word (BitVec.ofNat 32 data)]
  | .rd addr => some [.read addr .word]
  | .cmd i => whenFits i.wf [instrEvent i]
  | .load r v => whenFits (inInt64 v) (loadEvents r v)
  | .ldname bytes => whenFits (decide (bytes.length ≤ Config.nameMax)) (stageEvents 0 bytes)
  | .name bytes =>
    whenFits (decide (bytes.length ≤ Config.nameMax))
      (stageEvents 0 bytes ++ [instrEvent (.withName bytes.length)])
  | .coords x y z =>
    whenFits (inInt64 x && inInt64 y && inInt64 z)
      (loadEvents .a x ++ loadEvents .b y ++ loadEvents .c z ++ [instrEvent .withCoords])
  | .withValue i v => whenFits (i.wf && inInt64 v) (loadEvents .a v ++ [instrEvent i])
  | .status => some [.read HostReg.status.addr .word]
  | .res => some [.read HostReg.resLo.addr .word, .read HostReg.resHi.addr .word]

/-- The host actions of a program, line after line (R90). -/
def expandAll : List AsmLine → Option (List Event)
  | [] => some []
  | l :: ls =>
    match l.expand, expandAll ls with
    | some es, some rest => some (es ++ rest)
    | _, _ => none

/-- A token of a line's text. -/
inductive Token where
  | word (cs : List Char)
  | text (bytes : List Byte)
  | comma
deriving DecidableEq, Repr

/-- Where the reading of a line stands: between tokens, inside a word, inside a string. -/
inductive LexAt where
  | gap
  | word (cs : List Char)
  | text (bytes : List Byte)
deriving DecidableEq, Repr

/-- The UTF-8 bytes of a character (20_memory.md R57: Name is "ASCII/UTF-8"; log 13). -/
def charBytes (c : Char) : List Byte := (String.utf8EncodeChar c).map (·.toBitVec)

/-- The tokens of a line. A comment starts with `;` (R90), mnemonics are not case sensitive (R90), so
words are lower case; a string keeps its bytes. R90 leaves open which characters separate tokens: that
a space, a tab and a carriage return do, and no other character, is the model's choice (DESIGN CHOICE,
log 13), as are the reading of a double quote and of a string not closed. -/
def lexLine : List Char → LexAt → Option (List Token)
  | [], .gap => some []
  | [], .word w => some [.word w]
  | [], .text _ => none
  | c :: cs, .gap =>
    if c = ';' then some []
    else if c = ' ' ∨ c = '\t' ∨ c = '\r' then lexLine cs .gap
    else if c = ',' then (lexLine cs .gap).map (.comma :: ·)
    else if c = '"' then lexLine cs (.text [])
    else lexLine cs (.word [c.toLower])
  | c :: cs, .word w =>
    if c = ';' then some [.word w]
    else if c = ' ' ∨ c = '\t' ∨ c = '\r' then (lexLine cs .gap).map (.word w :: ·)
    else if c = ',' then (lexLine cs .gap).map (fun ts => .word w :: .comma :: ts)
    else if c = '"' then none
    else lexLine cs (.word (w ++ [c.toLower]))
  | c :: cs, .text bs =>
    if c = '"' then (lexLine cs .gap).map (.text bs :: ·)
    else lexLine cs (.text (bs ++ charBytes c))

/-- The operands of a line, separated by single commas (DESIGN CHOICE, log 13). -/
def splitOperands : List Token → Option (List Token)
  | [] => some []
  | [.comma] => none
  | [t] => some [t]
  | t :: .comma :: u :: ts => if t = .comma then none else (splitOperands (u :: ts)).map (t :: ·)
  | _ => none

/-- The value of a digit, lower case. -/
def digitValue (c : Char) : Nat :=
  if '0' ≤ c ∧ c ≤ '9' then c.toNat - '0'.toNat
  else if 'a' ≤ c ∧ c ≤ 'f' then c.toNat - 'a'.toNat + 10
  else 16

/-- The number that digits of a base spell, after a number already read. -/
def readDigits (base : Nat) : Nat → List Char → Option Nat
  | acc, [] => some acc
  | acc, c :: cs => if digitValue c < base then readDigits base (acc * base + digitValue c) cs else none

/-- A number without a sign: decimal, or `0x` hexadecimal (R90). -/
def readNat : List Char → Option Nat
  | '0' :: 'x' :: c :: cs => readDigits 16 0 (c :: cs)
  | c :: cs => readDigits 10 0 (c :: cs)
  | [] => none

/-- A number: decimal with an optional `-`, or `0x` hexadecimal (R90). -/
def readInt : List Char → Option Int
  | '-' :: c :: cs => (readDigits 10 0 (c :: cs)).map fun n => -(n : Int)
  | cs => (readNat cs).map fun n => (n : Int)

/-- The index of `BUFWIN[k]` or `NSTAGE[k]`, after its opening bracket. -/
def readIndex (bound : Nat) (cs : List Char) : Option Nat :=
  match cs.reverse with
  | ']' :: ds =>
    match readNat ds.reverse with
    | some k => if k < bound then some k else none
    | none => none
  | _ => none

/-- The register names of the map (20_memory.md R51, R90), but for the two windows. -/
def plainRegs : List (List Char × HostReg) := [
  ("info".toList, .info), ("status".toList, .status), ("cmd".toList, .cmd),
  ("opa_lo".toList, .opaLo), ("opa_hi".toList, .opaHi), ("opb_lo".toList, .opbLo),
  ("opb_hi".toList, .opbHi), ("opc_lo".toList, .opcLo), ("opc_hi".toList, .opcHi),
  ("res_lo".toList, .resLo), ("res_hi".toList, .resHi)]

/-- REG: a register name or an address (R90), as its address. -/
def readReg (cs : List Char) : Option Nat :=
  match plainRegs.lookup cs with
  | some r => some r.addr
  | none =>
    match cs with
    | 'b' :: 'u' :: 'f' :: 'w' :: 'i' :: 'n' :: '[' :: ds =>
      (readIndex Config.bufLen ds).map fun k => (HostReg.bufwin k).addr
    | 'n' :: 's' :: 't' :: 'a' :: 'g' :: 'e' :: '[' :: ds =>
      (readIndex Config.nameMax ds).map fun k => (HostReg.nstage k).addr
    | _ => readNat cs

/-- `hi` or `lo` (R90). -/
def readHi (cs : List Char) : Option Bool :=
  if cs = "hi".toList then some true else if cs = "lo".toList then some false else none

/-- A byte operand: MASK outside 0..255 is rejected (R90). -/
def readByte (cs : List Char) : Option Byte :=
  match readNat cs with
  | some n => if n < 256 then some (BitVec.ofNat 8 n) else none
  | none => none

/-- The commands whose line is the mnemonic alone (R90). -/
def bareCommands : List (List Char × Instr) := [
  ("begin".toList, .beginBuild), ("seal".toList, .sealRecord),
  ("with.coords".toList, .withCoords), ("with.gold".toList, .withGold),
  ("with.mana".toList, .withMana), ("with.health".toList, .withHealth),
  ("with.respect".toList, .withRespect), ("with.strength".toList, .withStrength),
  ("with.experience".toList, .withExperience), ("with.level".toList, .withLevel),
  ("with.house".toList, .withHouse), ("with.gun".toList, .withGun),
  ("with.family".toList, .withFamily), ("with.type".toList, .withType),
  ("get.name".toList, .getName), ("get.x".toList, .getX), ("get.y".toList, .getY),
  ("get.z".toList, .getZ), ("get.gold".toList, .getGold), ("get.mana".toList, .getMana),
  ("get.health".toList, .getHealth), ("get.respect".toList, .getRespect),
  ("get.strength".toList, .getStrength), ("get.experience".toList, .getExperience),
  ("get.level".toList, .getLevel), ("get.house".toList, .getHouse), ("get.gun".toList, .getGun),
  ("get.family".toList, .getFamily), ("get.type".toList, .getType)]

/-- The pseudo-instructions `<field> V`, each `lda V` and `with.<field>` (R91). -/
def valueSteps : List (List Char × Instr) := [
  ("gold".toList, .withGold), ("mana".toList, .withMana), ("health".toList, .withHealth),
  ("respect".toList, .withRespect), ("strength".toList, .withStrength),
  ("experience".toList, .withExperience), ("level".toList, .withLevel), ("type".toList, .withType)]

/-- `lda`, `ldb`, `ldc` (R91). -/
def loads : List (List Char × OpReg) := [
  ("lda".toList, .a), ("ldb".toList, .b), ("ldc".toList, .c)]

/-- A line with no operand (R90, R91). -/
def parse0 (m : List Char) : Option AsmLine :=
  if m = "status".toList then some .status
  else if m = "res".toList then some .res
  else (bareCommands.lookup m).map .cmd

/-- A line whose one operand is a word (R90, R91). -/
def parse1 (m x : List Char) : Option AsmLine :=
  if m = "rd".toList then (readReg x).map .rd
  else if m = "wr32".toList then (readNat x).map fun n => .cmd (.wr32 n)
  else if m = "rd32".toList then (readNat x).map fun n => .cmd (.rd32 n)
  else if m = "wr10".toList then (readNat x).map fun n => .cmd (.wr10 n)
  else if m = "rd10".toList then (readNat x).map fun n => .cmd (.rd10 n)
  else if m = "with.name".toList then (readNat x).map fun n => .cmd (.withName n)
  else
    match loads.lookup m, valueSteps.lookup m, readInt x with
    | some r, _, some v => some (.load r v)
    | none, some i, some v => some (.withValue i v)
    | _, _, _ => none

/-- A line with one string (R91). -/
def parseText (m : List Char) (bs : List Byte) : Option AsmLine :=
  if m = "ldname".toList then some (.ldname bs)
  else if m = "name".toList then some (.name bs)
  else none

/-- A line with two operands (R90, R91). -/
def parse2 (m x y : List Char) : Option AsmLine :=
  if m = "wr".toList then
    match readReg x, readNat y with
    | some a, some d => some (.wr a d)
    | _, _ => none
  else
    match readNat x with
    | none => none
    | some off =>
      if m = "wrnib".toList then (readHi y).map fun h => .cmd (.wrnib off h)
      else if m = "rdnib".toList then (readHi y).map fun h => .cmd (.rdnib off h)
      else if m = "setbit".toList then (readNat y).map fun k => .cmd (.setbit off k)
      else if m = "getbit".toList then (readNat y).map fun k => .cmd (.getbit off k)
      else if m = "wr32i".toList then (readInt y).map fun v => .withValue (.wr32 off) v
      else if m = "wr10i".toList then (readInt y).map fun v => .withValue (.wr10 off) v
      else none

/-- A line with three operands (R90, R91). -/
def parse3 (m x y z : List Char) : Option AsmLine :=
  if m = "coords".toList then
    match readInt x, readInt y, readInt z with
    | some a, some b, some c => some (.coords a b c)
    | _, _, _ => none
  else if m = "setmask".toList then
    match readNat x, readByte y, readNat z with
    | some off, some mask, some sh => some (.cmd (.setmask off mask sh))
    | _, _, _ => none
  else if m = "wrnibi".toList then
    match readNat x, readHi y, readInt z with
    | some off, some h, some v => some (.withValue (.wrnib off h) v)
    | _, _, _ => none
  else none

/-- `setmaski OFF, MASK, SH, V` (R91). -/
def parse4 (m x y z u : List Char) : Option AsmLine :=
  if m = "setmaski".toList then
    match readNat x, readByte y, readNat z, readInt u with
    | some off, some mask, some sh, some v => some (.withValue (.setmask off mask sh) v)
    | _, _, _, _ => none
  else none

/-- The line that a mnemonic and its operands spell (R90, R91). -/
def parseOperands (m : List Char) : List Token → Option AsmLine
  | [] => parse0 m
  | [.word x] => parse1 m x
  | [.text bs] => parseText m bs
  | [.word x, .word y] => parse2 m x y
  | [.word x, .word y, .word z] => parse3 m x y z
  | [.word x, .word y, .word z, .word u] => parse4 m x y z u
  | _ => none

/-- The lines of one line of text: none where it is blank or only a comment (DESIGN CHOICE, log 13), one
otherwise. The outer `none` is the assembler's rejection. -/
def parseLine (text : List Char) : Option (List AsmLine) :=
  match lexLine text .gap with
  | some [] => some []
  | some (.word m :: ts) =>
    match splitOperands ts with
    | some os => (parseOperands m os).map fun l => [l]
    | none => none
  | _ => none

/-- The lines of a program's text, read line by line; `cur` holds the line read so far. That a line feed
ends a line is the model's choice (DESIGN CHOICE, log 13). -/
def parseLines : List Char → List Char → Option (List AsmLine)
  | [], cur => parseLine cur
  | c :: cs, cur =>
    if c = '\n' then
      match parseLine cur, parseLines cs [] with
      | some l, some ls => some (l ++ ls)
      | _, _ => none
    else parseLines cs (cur ++ [c])

/-- The host actions that a program's text assembles to (R90, R91). -/
def assemble (text : List Char) : Option (List Event) :=
  (parseLines text []).bind expandAll

end Sys2Proof.Machine
end

