-- ==== Sys2Proof/Machine/Build.lean ====
section
/-! DEFINITION. The build contract (41_builder.md R140, R142): `build(steps)` as a function, and the
host sequence that carries it out on the block (30_encoding.md R92, 70_reset_and_hazards.md R232). -/

namespace Sys2Proof.Machine

/-- A configuration step: "one variant per settable field" (R142), with the values it supplies. -/
inductive ConfigStep where
  | name (bytes : List Byte)
  | coords (x y z : Int)
  | gold (v : Int)
  | mana (v : Int)
  | health (v : Int)
  | respect (v : Int)
  | strength (v : Int)
  | experience (v : Int)
  | level (v : Int)
  | house
  | gun
  | family
  | type (v : Int)
deriving DecidableEq, Repr

/-- The field a step configures (R142). -/
inductive Field where
  | name
  | coords
  | gold
  | mana
  | health
  | respect
  | strength
  | experience
  | level
  | house
  | gun
  | family
  | type
deriving DecidableEq, Repr

/-- The field of a step. -/
def ConfigStep.field : ConfigStep → Field
  | .name _ => .name
  | .coords _ _ _ => .coords
  | .gold _ => .gold
  | .mana _ => .mana
  | .health _ => .health
  | .respect _ => .respect
  | .strength _ => .strength
  | .experience _ => .experience
  | .level _ => .level
  | .house => .house
  | .gun => .gun
  | .family => .family
  | .type _ => .type

/-- `step(s, b)` of R140: the step's effect on the buffer under construction (R143 to R155). -/
def ConfigStep.apply (s : ConfigStep) (b : Memory) : Except CmdError Memory :=
  match s with
  | .name bytes => stepName bytes.length (fun k => bytes.getD k 0) b
  | .coords x y z => stepCoords x y z b
  | .gold v => stepGold v b
  | .mana v => stepMana v b
  | .health v => stepHealth v b
  | .respect v => stepRespect v b
  | .strength v => stepStrength v b
  | .experience v => stepExperience v b
  | .level v => stepLevel v b
  | .house => stepHouse b
  | .gun => stepGun b
  | .family => stepFamily b
  | .type v => stepType v b

/-- The steps applied "strictly in the order supplied"; the first error is the result (R140). -/
def applySteps : List ConfigStep → Memory → Except CmdError Memory
  | [], b => .ok b
  | s :: ss, b =>
    match s.apply b with
    | .ok b' => applySteps ss b'
    | .error e => .error e

/-- `build(steps)` of R140: a freshly zeroed buffer, the steps, then the seal check. -/
def build (steps : List ConfigStep) : Except CmdError Memory :=
  match applySteps steps Memory.zeroed with
  | .ok b => if sealOk b then .ok b else .error .invalidLayout
  | .error e => .error e

/-- The host can put the step's operands in the registers: its values fit 64 bits, its name length
fits LEN. A name of more than 42 bytes is still a step, and fails (R143; log 16). -/
def ConfigStep.expressible : ConfigStep → Bool
  | .name bytes => decide (bytes.length < 256)
  | .coords x y z => inInt64 x && inInt64 y && inInt64 z
  | .gold v => inInt64 v
  | .mana v => inInt64 v
  | .health v => inInt64 v
  | .respect v => inInt64 v
  | .strength v => inInt64 v
  | .experience v => inInt64 v
  | .level v => inInt64 v
  | .house => true
  | .gun => true
  | .family => true
  | .type v => inInt64 v

/-- The host actions of a step: its operands, then its command (R92, R232). Of a name longer than
the slot, the bytes that NSTAGE can hold are staged (log 16). -/
def ConfigStep.events : ConfigStep → List Event
  | .name bytes =>
    stageEvents 0 (bytes.take Config.nameMax) ++ [instrEvent (.withName bytes.length)]
  | .coords x y z =>
    loadEvents .a x ++ loadEvents .b y ++ loadEvents .c z ++ [instrEvent .withCoords]
  | .gold v => loadEvents .a v ++ [instrEvent .withGold]
  | .mana v => loadEvents .a v ++ [instrEvent .withMana]
  | .health v => loadEvents .a v ++ [instrEvent .withHealth]
  | .respect v => loadEvents .a v ++ [instrEvent .withRespect]
  | .strength v => loadEvents .a v ++ [instrEvent .withStrength]
  | .experience v => loadEvents .a v ++ [instrEvent .withExperience]
  | .level v => loadEvents .a v ++ [instrEvent .withLevel]
  | .house => [instrEvent .withHouse]
  | .gun => [instrEvent .withGun]
  | .family => [instrEvent .withFamily]
  | .type v => loadEvents .a v ++ [instrEvent .withType]

/-- The host actions of the steps, in order. -/
def stepsEvents : List ConfigStep → List Event
  | [] => []
  | s :: ss => s.events ++ stepsEvents ss

/-- The host sequence of `build(steps)`: BEGIN, the steps, SEAL (R92, R140). -/
def buildEvents (steps : List ConfigStep) : List Event :=
  instrEvent .beginBuild :: (stepsEvents steps ++ [instrEvent .sealRecord])

end Sys2Proof.Machine
end

