-- ==== Sys2Proof/Safety.lean ====
section
/-! DEFINITION. What claims call a good state and a run that the bus never refuses. -/

namespace Sys2Proof.Machine

/-- The invariants of the block: both memories in canonical form and of their size (20_memory.md
R76), BUF zero in IDLE (10_state.md R38), the seal conditions in SEALED (R39). -/
abbrev Block.Inv (b : Block) : Prop :=
  b.buf.wf Config.bufLen = true ∧ b.nstage.wf Config.nameMax = true ∧
  (b.mode = .idle → b.buf = Memory.zeroed) ∧ (b.mode = .sealed → sealOk b.buf = true)

/-- The invariants of a state. -/
abbrev State.Inv (s : State) : Prop := s.blk.Inv

/-- The event is one the bus admits (20_memory.md R53), or a reset. -/
def Event.admitted : Event → Bool
  | .write addr size _ => (accessRefusal addr size).isNone
  | .read addr size => (accessRefusal addr size).isNone
  | .reset => true

/-- Every pending event is admitted: the host drives the bus as R53 says. -/
def State.busLegal (s : State) : Bool := s.pending.all Event.admitted

end Sys2Proof.Machine
end

