-- ==== Sys2Proof/Certificates/Slice0/Obligations.lean ====
section
/-! DEFINITION. The statements about the machine, for the provers. The words used in them stand
first, under `Sys2Proof.Claims`; they are written from the spec's rules, apart from the model's own
definitions. -/

namespace Sys2Proof.Claims

open Sys2Proof.Machine

/-- Error entry with an error (60_exceptions.md R206): ERR takes the code; in BUILDING, BUF is
zeroed, MODE is IDLE and ABORT_CODE takes the code; elsewhere these stay. Nothing else changes. -/
def AfterError (e : CmdError) (s t : State) : Prop :=
  t.pending = s.pending ∧ t.listing = s.listing ∧
  t.blk.nstage = s.blk.nstage ∧ t.blk.opa = s.blk.opa ∧ t.blk.opb = s.blk.opb ∧
  t.blk.opc = s.blk.opc ∧ t.blk.res = s.blk.res ∧ t.blk.err = e.code ∧
  (s.blk.mode = .building →
    (∀ a, t.blk.buf.read a = 0) ∧ t.blk.mode = .idle ∧ t.blk.abortCode = e.code) ∧
  (s.blk.mode ≠ .building →
    t.blk.buf = s.blk.buf ∧ t.blk.mode = s.blk.mode ∧ t.blk.abortCode = s.blk.abortCode)

/-- The command ends in error entry with this error. -/
def FailsWith (i : Instr) (s : State) (e : CmdError) : Prop :=
  ∃ t, exec i s = .next t ∧ AfterError e s t

/-- The command is ILLEGAL_COMMAND outside BUILDING (30_encoding.md R84, modes "B"). -/
def IllegalOutsideBuilding (i : Instr) : Prop :=
  ∀ s : State, s.blk.mode ≠ .building → FailsWith i s .illegalCommand

/-- The command is ILLEGAL_COMMAND outside SEALED (R84, modes "S"). -/
def IllegalOutsideSealed (i : Instr) : Prop :=
  ∀ s : State, s.blk.mode ≠ .sealed → FailsWith i s .illegalCommand

/-- The command succeeded and its body wrote BUF alone: ERR is OK, all else but BUF is as before. -/
def WroteBufAlone (s t : State) : Prop :=
  t = { s with blk := { s.blk with buf := t.blk.buf, err := .ok } }

/-- The state after a command that succeeded and put a value in RES: ERR is OK, all else is as
before, every byte of BUF and NSTAGE included. -/
def withResult (s : State) (v : DWord) : State :=
  { s with blk := { s.blk with res := v, err := .ok } }

/-- Every byte of BUF outside `start .. start + n - 1` reads as before. -/
def BytesKept (s t : State) (start n : Nat) : Prop :=
  ∀ a, (a < start ∨ start + n ≤ a) → t.blk.buf.read a = s.blk.buf.read a

/-- Outside the signed 32-bit range (60_exceptions.md R201). -/
abbrev OutsideInt32 (v : Int) : Prop := v < -2147483648 ∨ 2147483647 < v

/-- Bytes `off` to `off + 3` of BUF hold the low 32 bits of an operand register, most significant byte
first (20_memory.md R59). -/
def HoldsBigEndian (t : State) (off : Nat) (v : DWord) : Prop :=
  t.blk.buf.read off = v.extractLsb' 24 8 ∧ t.blk.buf.read (off + 1) = v.extractLsb' 16 8 ∧
  t.blk.buf.read (off + 2) = v.extractLsb' 8 8 ∧ t.blk.buf.read (off + 3) = v.extractLsb' 0 8

/-- Byte `off` holds bits 7:0 of the value, bits 5:4 of byte `off + 1` hold its bits 9:8, and the other
bits of byte `off + 1` are as before (R60, 40_codec.md R104). -/
def Holds10 (s t : State) (off : Nat) (v : DWord) : Prop :=
  t.blk.buf.read off = v.extractLsb' 0 8 ∧
  (t.blk.buf.read (off + 1)).extractLsb' 4 2 = v.extractLsb' 8 2 ∧
  (t.blk.buf.read (off + 1)).extractLsb' 0 4 = (s.blk.buf.read (off + 1)).extractLsb' 0 4 ∧
  (t.blk.buf.read (off + 1)).extractLsb' 6 2 = (s.blk.buf.read (off + 1)).extractLsb' 6 2

/-- The chosen nibble of byte `off` holds bits 3:0 of the value, the other nibble is as before
(40_codec.md R106). -/
def HoldsNibble (s t : State) (off : Nat) (hi : Bool) (v : DWord) : Prop :=
  (t.blk.buf.read off).extractLsb' (if hi then 4 else 0) 4 = v.extractLsb' 0 4 ∧
  (t.blk.buf.read off).extractLsb' (if hi then 0 else 4) 4 =
    (s.blk.buf.read off).extractLsb' (if hi then 0 else 4) 4

/-- Bit `i` of byte `off` is 1 and the other bits of the byte are as before (40_codec.md R108). -/
def HasBitSet (s t : State) (off i : Nat) : Prop :=
  (t.blk.buf.read off).getLsbD i = true ∧
  ∀ j, j ≠ i → (t.blk.buf.read off).getLsbD j = (s.blk.buf.read off).getLsbD j

/-- The signed 32-bit value at `off`, sign-extended to 64 bits (40_codec.md R103, 10_state.md R26). -/
def value32 (s : State) (off : Nat) : DWord :=
  (s.blk.buf.read off ++ s.blk.buf.read (off + 1) ++ s.blk.buf.read (off + 2) ++
    s.blk.buf.read (off + 3)).signExtend 64

/-- The 10-bit value at `off`: bits 5:4 of the second byte above the first byte (40_codec.md R105). -/
def value10At (s : State) (off : Nat) : DWord :=
  BitVec.ofNat 64 ((s.blk.buf.read (off + 1)).toNat / 16 % 4 * 256 + (s.blk.buf.read off).toNat)

/-- A nibble of byte `off` (40_codec.md R107). -/
def nibbleAt (s : State) (off : Nat) (hi : Bool) : DWord :=
  BitVec.ofNat 64 (if hi then (s.blk.buf.read off).toNat / 16 else (s.blk.buf.read off).toNat % 16)

/-- A bit of byte `off`, as 0 or 1 (40_codec.md R109). -/
def bitAt (s : State) (off i : Nat) : DWord :=
  if (s.blk.buf.read off).getLsbD i then 1 else 0

/-- The modes in which a command is legal (30_encoding.md R84, column "modes"). -/
def LegalIn : Instr → Mode → Prop
  | .beginBuild, _ => True
  | .rd32 _, _ => True
  | .rd10 _, _ => True
  | .rdnib _ _, _ => True
  | .getbit _ _, _ => True
  | .getName, m => m = .sealed
  | .getX, m => m = .sealed
  | .getY, m => m = .sealed
  | .getZ, m => m = .sealed
  | .getGold, m => m = .sealed
  | .getMana, m => m = .sealed
  | .getHealth, m => m = .sealed
  | .getRespect, m => m = .sealed
  | .getStrength, m => m = .sealed
  | .getExperience, m => m = .sealed
  | .getLevel, m => m = .sealed
  | .getHouse, m => m = .sealed
  | .getGun, m => m = .sealed
  | .getFamily, m => m = .sealed
  | .getType, m => m = .sealed
  | _, m => m = .building

/-- The commands that produce a value (R84, column "RES"). -/
def ProducesValue : Instr → Prop
  | .rd32 _ => True
  | .rd10 _ => True
  | .rdnib _ _ => True
  | .getbit _ _ => True
  | .getName => True
  | .getX => True
  | .getY => True
  | .getZ => True
  | .getGold => True
  | .getMana => True
  | .getHealth => True
  | .getRespect => True
  | .getStrength => True
  | .getExperience => True
  | .getLevel => True
  | .getHouse => True
  | .getGun => True
  | .getFamily => True
  | .getType => True
  | _ => False

/-- The operands of a command are the fields of the word, at the places of 30_encoding.md R81 and
R83. -/
def OperandsFrom (w : Word) : Instr → Prop
  | .wr32 off => off = (w.extractLsb' 8 8).toNat
  | .rd32 off => off = (w.extractLsb' 8 8).toNat
  | .wr10 off => off = (w.extractLsb' 8 8).toNat
  | .rd10 off => off = (w.extractLsb' 8 8).toNat
  | .wrnib off hi => off = (w.extractLsb' 8 8).toNat ∧ hi = w.getLsbD 27
  | .rdnib off hi => off = (w.extractLsb' 8 8).toNat ∧ hi = w.getLsbD 27
  | .setbit off sh => off = (w.extractLsb' 8 8).toNat ∧ sh = (w.extractLsb' 24 3).toNat
  | .getbit off sh => off = (w.extractLsb' 8 8).toNat ∧ sh = (w.extractLsb' 24 3).toNat
  | .setmask off mask sh =>
    off = (w.extractLsb' 8 8).toNat ∧ mask = w.extractLsb' 16 8 ∧ sh = (w.extractLsb' 24 3).toNat
  | .withName len => len = (w.extractLsb' 8 8).toNat
  | _ => True

/-- The state with the given events still to come. -/
def queued (s : State) (es : List Event) : State := { s with pending := es }

/-- The state after the host's read returned a word: the listing shows it, all else is as before. -/
def afterRead (s : State) (v : Word) : State := { s with listing := s.listing ++ [v] }

/-- The event is an access that is not an aligned 32-bit access in 0x000..0xFFC (20_memory.md R53). -/
def BadAccess : Event → Prop
  | .write addr size _ => size ≠ .word ∨ 0xFFC < addr ∨ addr % 4 ≠ 0
  | .read addr size => size ≠ .word ∨ 0xFFC < addr ∨ addr % 4 ≠ 0
  | .reset => False

/-- The register address of a read-only register or of a reserved one (R51, R52). -/
def ReadOnlyOrReserved (a : Nat) : Prop :=
  a % 4 = 0 ∧ a ≤ 0xFFC ∧
    (a = 0x000 ∨ a = 0x004 ∨ a = 0x00C ∨ a = 0x028 ∨ a = 0x02C ∨ (0x030 ≤ a ∧ a ≤ 0x1FC) ∨ 0x2A8 ≤ a)

/-- The address of CMD or of a reserved register (R51, R52). -/
def WriteOnlyOrReserved (a : Nat) : Prop :=
  a % 4 = 0 ∧ a ≤ 0xFFC ∧ (a = 0x008 ∨ a = 0x00C ∨ (0x030 ≤ a ∧ a ≤ 0x0FC) ∨ 0x2A8 ≤ a)

/-- The next event is a write of this word to CMD. -/
def NextCommand (s : State) (w : Word) : Prop := ∃ rest, s.pending = .write 0x008 .word w :: rest

/-- The next event is the reset. -/
def NextReset (s : State) : Prop := ∃ rest, s.pending = .reset :: rest

/-- The seal conditions (41_builder.md R156): byte 61 bit 3 is 0, byte 59 bits 7:6 and 3:0 are 0, and
the Type bits are not 3. -/
def MayBeSealed (b : Memory) : Prop :=
  (b.read 61).getLsbD 3 = false ∧ (b.read 59).extractLsb' 0 4 = 0 ∧ (b.read 59).extractLsb' 6 2 = 0 ∧
  ¬((b.read 61).getLsbD 6 = true ∧ (b.read 61).getLsbD 7 = true)

/-- The length of a name: the first zero byte, or the whole 42-byte slot (42_accessors.md R171). -/
def NameLength (b : Memory) (l : Nat) : Prop :=
  l ≤ 42 ∧ (∀ k, k < l → b.read k ≠ 0) ∧ (l < 42 → b.read l = 0)

/-- A field owns bit `i` of byte `a` (20_memory.md R57, R58). -/
def Owns : Field → Nat → Nat → Prop
  | .name, a, _ => a ≤ 41
  | .coords, a, _ => 42 ≤ a ∧ a ≤ 53
  | .gold, a, _ => 54 ≤ a ∧ a ≤ 57
  | .mana, a, i => a = 58 ∨ (a = 59 ∧ (i = 4 ∨ i = 5))
  | .health, a, i => a = 60 ∨ (a = 61 ∧ (i = 4 ∨ i = 5))
  | .respect, a, i => a = 62 ∧ 4 ≤ i
  | .strength, a, i => a = 62 ∧ i ≤ 3
  | .experience, a, i => a = 63 ∧ 4 ≤ i
  | .level, a, i => a = 63 ∧ i ≤ 3
  | .house, a, i => a = 61 ∧ i = 0
  | .gun, a, i => a = 61 ∧ i = 1
  | .family, a, i => a = 61 ∧ i = 2
  | .type, a, i => a = 61 ∧ (i = 6 ∨ i = 7)

/-- The value of the last step that supplies one, or the default (42_accessors.md R187). -/
def lastOr {α : Type} (pick : ConfigStep → Option α) (default : α) : List ConfigStep → α
  | [] => default
  | c :: cs => lastOr pick ((pick c).getD default) cs

/-- In a state that holds this sealed record, the accessor puts this value in RES. -/
def Reads (b : Memory) (i : Instr) (v : Int) : Prop :=
  ∀ s : State, s.blk.mode = .sealed → s.blk.buf = b →
    exec i s = .next (withResult s (BitVec.ofInt 64 v))

end Sys2Proof.Claims

open Sys2Proof Sys2Proof.Machine Sys2Proof.Claims

/-! ### Reset and the outside world -/

/-- 10_state.md R37, 70_reset_and_hazards.md R230: after the reset event every element of the block has
its reset value, and the machine's reset state has the same block. That the reset keeps the actions
still to come and the listing is the MODEL's own choice (log 4; the two lists are its own fields, logs
1 and 2), which no rule states. -/
def Obligations.ResetGivesEveryElementItsValue : Prop :=
  (∀ s rest, ∃ t, step (queued s (.reset :: rest)) = .next t ∧ t.pending = rest ∧
    t.listing = s.listing ∧ t.blk = State.reset.blk) ∧
  (∀ a, State.reset.blk.buf.read a = 0) ∧ (∀ a, State.reset.blk.nstage.read a = 0) ∧
  State.reset.blk.opa = 0 ∧ State.reset.blk.opb = 0 ∧ State.reset.blk.opc = 0 ∧
  State.reset.blk.res = 0 ∧ State.reset.blk.mode = .idle ∧ State.reset.blk.err = .ok ∧
  State.reset.blk.abortCode = .ok

/-- 30_encoding.md R87 (its first lines), 00_scope.md R4: a step whose next host action is a CMD write
of a word that decodes runs exactly that command, with the action taken off the list; a word that does
not decode ends in error entry with ILLEGAL_COMMAND. -/
def Obligations.StepRunsTheDecodedCommand : Prop :=
  ∀ (s : State) (w : Word) (rest : List Event),
    (∀ i, decode w = .ok i → step (queued s (.write 0x008 .word w :: rest)) = exec i (queued s rest)) ∧
    (∀ r, decode w = .error r → ∃ t, step (queued s (.write 0x008 .word w :: rest)) = .next t ∧
      AfterError .illegalCommand (queued s rest) t)

/-- The MODEL's own way of placing a command (log 14): the step after `withFetchWord` runs the command
that the table's word decodes to. -/
def Obligations.StepRunsThePlacedTableWord : Prop :=
  ∀ (s : State) (nbits w : Nat) (i : Instr), decodeTableWord nbits w = some i →
    step (s.withFetchWord nbits w) = exec i s

/-- 20_memory.md R53: the bus refuses exactly the accesses that are not aligned 32-bit accesses in
0x000..0xFFC; every other event has a next state. -/
def Obligations.BusRefusesExactlyTheBadAccesses : Prop :=
  ∀ (s : State) (e : Event) (rest : List Event),
    (BadAccess e → ∃ r, step (queued s (e :: rest)) = .refused r) ∧
    (¬BadAccess e → ∃ t, step (queued s (e :: rest)) = .next t)

/-! ### Encoding -/

/-- 30_encoding.md R81 to R85: decoding the word of a well-formed command gives the command back, every
operand at every value its field admits. -/
def Obligations.DecodeOfEncodeGivesTheCommand : Prop :=
  ∀ i : Instr, i.WellFormed → decode (encode i) = .ok i

/-- 30_encoding.md R82: a word that decodes has its unused fields and RSV 0 (it is the one word of its
command), and the command is well formed. -/
def Obligations.EachCommandHasOneSpelling : Prop :=
  ∀ (w : Word) (i : Instr), decode w = .ok i → i.WellFormed ∧ encode i = w

/-- 30_encoding.md R85: a word that matches a row of opcode_table.json decodes to that row's command
with the fields R83 says; a word that matches none is illegal, and writing it to CMD raises
ILLEGAL_COMMAND. -/
def Obligations.WordDecodesAsItsTableRow : Prop :=
  ∀ w : Word,
    (∀ r ∈ opcodeTable, r.Matches w →
      ∃ i, decode w = .ok i ∧ i.mnemonic = r.mnemonic ∧ OperandsFrom w i) ∧
    ((∀ r ∈ opcodeTable, ¬r.Matches w) → (∃ e, decode w = .error e) ∧
      ∀ (s : State) (rest : List Event), ∃ t, step (queued s (.write 0x008 .word w :: rest)) = .next t ∧
        AfterError .illegalCommand (queued s rest) t)

/-- Six commands and four illegal words written out in 95_test_vectors.md section 2.8. The section says of
the four only that they are illegal; the reason that the decoder names for each is the MODEL's own choice
(log 18) and reaches no state of the machine. -/
def Obligations.SampleWordsDecode : Prop :=
  decode 0x00003C10 = .ok (.wr32 60) ∧ decode 0x03003D16 = .ok (.setbit 61 3) ∧
  decode 0x06C03D18 = .ok (.setmask 61 0xC0 6) ∧ decode 0x08003E14 = .ok (.wrnib 62 true) ∧
  decode 0x00002A20 = .ok (.withName 42) ∧ decode 0x00003A13 = .ok (.rd10 58) ∧
  decode 0x00000000 = .error (.undefinedOpcode 0) ∧ decode 0x10000001 = .error .reservedNonzero ∧
  decode 0x00000101 = .error .unusedFieldNonzero ∧ decode 0x08003E10 = .error .unusedFieldNonzero

/-! ### Modes and errors -/

/-- 30_encoding.md R86, 60_exceptions.md R203 cause 2: a command that is not legal in the current mode
raises ILLEGAL_COMMAND. -/
def Obligations.IllegalModeRaisesIllegalCommand : Prop :=
  ∀ (i : Instr) (s : State), ¬LegalIn i s.blk.mode → FailsWith i s .illegalCommand

/-- 60_exceptions.md R206: whatever word is written to CMD, if the outcome is an error then the state
is exactly that of error entry with it. -/
def Obligations.EveryErrorIsErrorEntry : Prop :=
  ∀ (w : Word) (s t : State) (rest : List Event),
    step (queued s (.write 0x008 .word w :: rest)) = .next t → t.blk.err ≠ .ok →
      ∃ e, AfterError e (queued s rest) t

/-- 20_memory.md R66, 70_reset_and_hazards.md R238: every CMD write completes, whatever the word and
the state. -/
def Obligations.EveryCommandWordCompletes : Prop :=
  ∀ (w : Word) (s : State) (rest : List Event),
    ∃ t, step (queued s (.write 0x008 .word w :: rest)) = .next t ∧ t.pending = rest

/-! ### The raw codec commands -/

/-- 40_codec.md R113. -/
def Obligations.Wr32WritesBigEndian : Prop :=
  (∀ w : Word, w &&& 0xFFFF00FF = 0x00000010 → decode w = .ok (.wr32 (w.extractLsb' 8 8).toNat)) ∧
  (∀ off, IllegalOutsideBuilding (.wr32 off)) ∧
  ∀ (off : Nat) (s : State), s.blk.mode = .building →
    (OutsideInt32 s.blk.opa.toInt → FailsWith (.wr32 off) s .outOfRange) ∧
    (¬OutsideInt32 s.blk.opa.toInt → 60 < off → FailsWith (.wr32 off) s .invalidLayout) ∧
    (¬OutsideInt32 s.blk.opa.toInt → off ≤ 60 →
      ∃ t, exec (.wr32 off) s = .next t ∧ WroteBufAlone s t ∧ HoldsBigEndian t off s.blk.opa ∧
        BytesKept s t off 4)

/-- 40_codec.md R114. -/
def Obligations.Rd32ReadsBigEndian : Prop :=
  (∀ w : Word, w &&& 0xFFFF00FF = 0x00000011 → decode w = .ok (.rd32 (w.extractLsb' 8 8).toNat)) ∧
  ∀ (off : Nat) (s : State),
    (60 < off → FailsWith (.rd32 off) s .invalidLayout) ∧
    (off ≤ 60 → exec (.rd32 off) s = .next (withResult s (value32 s off)))

/-- 40_codec.md R115. -/
def Obligations.Wr10WritesSplitValue : Prop :=
  (∀ w : Word, w &&& 0xFFFF00FF = 0x00000012 → decode w = .ok (.wr10 (w.extractLsb' 8 8).toNat)) ∧
  (∀ off, IllegalOutsideBuilding (.wr10 off)) ∧
  ∀ (off : Nat) (s : State), s.blk.mode = .building →
    (s.blk.opa.toInt < 0 ∨ 1023 < s.blk.opa.toInt → FailsWith (.wr10 off) s .outOfRange) ∧
    (0 ≤ s.blk.opa.toInt → s.blk.opa.toInt ≤ 1023 → 62 < off →
      FailsWith (.wr10 off) s .invalidLayout) ∧
    (0 ≤ s.blk.opa.toInt → s.blk.opa.toInt ≤ 1023 → off ≤ 62 →
      ∃ t, exec (.wr10 off) s = .next t ∧ WroteBufAlone s t ∧ Holds10 s t off s.blk.opa ∧
        BytesKept s t off 2)

/-- 40_codec.md R116. -/
def Obligations.Rd10ReadsSplitValue : Prop :=
  (∀ w : Word, w &&& 0xFFFF00FF = 0x00000013 → decode w = .ok (.rd10 (w.extractLsb' 8 8).toNat)) ∧
  ∀ (off : Nat) (s : State),
    (62 < off → FailsWith (.rd10 off) s .invalidLayout) ∧
    (off ≤ 62 → exec (.rd10 off) s = .next (withResult s (value10At s off)))

/-- 40_codec.md R117. -/
def Obligations.WrnibWritesOneNibble : Prop :=
  (∀ w : Word, w &&& 0xF7FF00FF = 0x00000014 →
    decode w = .ok (.wrnib (w.extractLsb' 8 8).toNat (w.getLsbD 27))) ∧
  (∀ off hi, IllegalOutsideBuilding (.wrnib off hi)) ∧
  ∀ (off : Nat) (hi : Bool) (s : State), s.blk.mode = .building →
    (s.blk.opa.toInt < 0 ∨ 15 < s.blk.opa.toInt → FailsWith (.wrnib off hi) s .outOfRange) ∧
    (0 ≤ s.blk.opa.toInt → s.blk.opa.toInt ≤ 15 → 63 < off →
      FailsWith (.wrnib off hi) s .invalidLayout) ∧
    (0 ≤ s.blk.opa.toInt → s.blk.opa.toInt ≤ 15 → off ≤ 63 →
      ∃ t, exec (.wrnib off hi) s = .next t ∧ WroteBufAlone s t ∧
        HoldsNibble s t off hi s.blk.opa ∧ BytesKept s t off 1)

/-- 40_codec.md R118. -/
def Obligations.RdnibReadsOneNibble : Prop :=
  (∀ w : Word, w &&& 0xF7FF00FF = 0x00000015 →
    decode w = .ok (.rdnib (w.extractLsb' 8 8).toNat (w.getLsbD 27))) ∧
  ∀ (off : Nat) (hi : Bool) (s : State),
    (63 < off → FailsWith (.rdnib off hi) s .invalidLayout) ∧
    (off ≤ 63 → exec (.rdnib off hi) s = .next (withResult s (nibbleAt s off hi)))

/-- 40_codec.md R119; a bit index is 0..7 (30_encoding.md R83). -/
def Obligations.SetbitSetsOneBit : Prop :=
  (∀ w : Word, w &&& 0xF8FF00FF = 0x00000016 →
    decode w = .ok (.setbit (w.extractLsb' 8 8).toNat (w.extractLsb' 24 3).toNat)) ∧
  (∀ off i, IllegalOutsideBuilding (.setbit off i)) ∧
  ∀ (off i : Nat) (s : State), i < 8 → s.blk.mode = .building →
    (63 < off → FailsWith (.setbit off i) s .invalidLayout) ∧
    (off ≤ 63 →
      ∃ t, exec (.setbit off i) s = .next t ∧ WroteBufAlone s t ∧ HasBitSet s t off i ∧
        BytesKept s t off 1)

/-- 40_codec.md R120. -/
def Obligations.GetbitReadsOneBit : Prop :=
  (∀ w : Word, w &&& 0xF8FF00FF = 0x00000017 →
    decode w = .ok (.getbit (w.extractLsb' 8 8).toNat (w.extractLsb' 24 3).toNat)) ∧
  ∀ (off i : Nat) (s : State), i < 8 →
    (63 < off → FailsWith (.getbit off i) s .invalidLayout) ∧
    (off ≤ 63 → exec (.getbit off i) s = .next (withResult s (bitAt s off i)))

/-- 40_codec.md R121: the mask bits of the byte become those of `sOPA << sh`, the others are kept; a
value with a bit outside the mask, or over 255, or negative, is OUT_OF_RANGE. -/
def Obligations.SetmaskWritesUnderMask : Prop :=
  (∀ w : Word, w &&& 0xF80000FF = 0x00000018 →
    decode w = .ok (.setmask (w.extractLsb' 8 8).toNat (w.extractLsb' 16 8)
      (w.extractLsb' 24 3).toNat)) ∧
  (∀ off mask sh, IllegalOutsideBuilding (.setmask off mask sh)) ∧
  ∀ (off : Nat) (mask : Byte) (sh : Nat) (s : State), sh < 8 → s.blk.mode = .building →
    (s.blk.opa.toInt < 0 ∨ 255 < s.blk.opa.toInt * 2 ^ sh ∨
        (∃ j, (s.blk.opa.toInt * 2 ^ sh).toNat.testBit j = true ∧ mask.getLsbD j = false) →
      FailsWith (.setmask off mask sh) s .outOfRange) ∧
    (0 ≤ s.blk.opa.toInt → s.blk.opa.toInt * 2 ^ sh ≤ 255 →
        (∀ j, (s.blk.opa.toInt * 2 ^ sh).toNat.testBit j = true → mask.getLsbD j = true) →
      (63 < off → FailsWith (.setmask off mask sh) s .invalidLayout) ∧
      (off ≤ 63 →
        ∃ t, exec (.setmask off mask sh) s = .next t ∧ WroteBufAlone s t ∧ BytesKept s t off 1 ∧
          ∀ j, (t.blk.buf.read off).getLsbD j =
            if mask.getLsbD j then (s.blk.opa.toInt * 2 ^ sh).toNat.testBit j
            else (s.blk.buf.read off).getLsbD j))

/-! ### The builder -/

/-- 41_builder.md R141: BEGIN completes in every mode. -/
def Obligations.BeginStartsAFreshBuild : Prop :=
  decode 0x00000001 = .ok .beginBuild ∧
  (∀ w : Word, w.extractLsb' 0 8 = 0x01 → w ≠ 0x00000001 → ∃ r, decode w = .error r) ∧
  ∀ s : State, ∃ t, exec .beginBuild s = .next t ∧ (∀ a, t.blk.buf.read a = 0) ∧
    t = { s with blk :=
      { s.blk with buf := t.blk.buf, mode := .building, abortCode := .ok, err := .ok } }

/-- 41_builder.md R156. -/
def Obligations.SealChecksTheLayout : Prop :=
  decode 0x00000002 = .ok .sealRecord ∧ IllegalOutsideBuilding .sealRecord ∧
  ∀ s : State, s.blk.mode = .building →
    (¬MayBeSealed s.blk.buf → FailsWith .sealRecord s .invalidLayout) ∧
    (MayBeSealed s.blk.buf →
      exec .sealRecord s = .next { s with blk := { s.blk with mode := .sealed, err := .ok } })

/-- 41_builder.md R143. -/
def Obligations.WithNameWritesThePaddedName : Prop :=
  (∀ w : Word, w &&& 0xFFFF00FF = 0x00000020 → decode w = .ok (.withName (w.extractLsb' 8 8).toNat)) ∧
  (∀ len, IllegalOutsideBuilding (.withName len)) ∧
  ∀ (len : Nat) (s : State), s.blk.mode = .building →
    (42 < len → FailsWith (.withName len) s .outOfRange) ∧
    (len ≤ 42 →
      ∃ t, exec (.withName len) s = .next t ∧ WroteBufAlone s t ∧ BytesKept s t 0 42 ∧
        ∀ k, k < 42 → t.blk.buf.read k = if k < len then s.blk.nstage.read k else 0)

/-- 41_builder.md R144. -/
def Obligations.WithCoordsWritesThreeValues : Prop :=
  decode 0x00000021 = .ok .withCoords ∧ IllegalOutsideBuilding .withCoords ∧
  ∀ s : State, s.blk.mode = .building →
    (OutsideInt32 s.blk.opa.toInt ∨ OutsideInt32 s.blk.opb.toInt ∨ OutsideInt32 s.blk.opc.toInt →
      FailsWith .withCoords s .outOfRange) ∧
    (¬OutsideInt32 s.blk.opa.toInt → ¬OutsideInt32 s.blk.opb.toInt →
        ¬OutsideInt32 s.blk.opc.toInt →
      ∃ t, exec .withCoords s = .next t ∧ WroteBufAlone s t ∧ HoldsBigEndian t 42 s.blk.opa ∧
        HoldsBigEndian t 46 s.blk.opb ∧ HoldsBigEndian t 50 s.blk.opc ∧ BytesKept s t 42 12)

/-- 41_builder.md R145. -/
def Obligations.WithGoldWritesGold : Prop :=
  decode 0x00000022 = .ok .withGold ∧ IllegalOutsideBuilding .withGold ∧
  ∀ s : State, s.blk.mode = .building →
    (OutsideInt32 s.blk.opa.toInt → FailsWith .withGold s .outOfRange) ∧
    (¬OutsideInt32 s.blk.opa.toInt →
      ∃ t, exec .withGold s = .next t ∧ WroteBufAlone s t ∧ HoldsBigEndian t 54 s.blk.opa ∧
        BytesKept s t 54 4)

/-- 41_builder.md R146 and R147: WITH.MANA at 58 and WITH.HEALTH at 60; the other bits of the second
byte (for Health the flags, bit 3 and Type) are kept. -/
def Obligations.WithManaAndHealthWriteTenBits : Prop :=
  ∀ c ∈ [(Instr.withMana, (0x00000023 : Word), 58), (Instr.withHealth, 0x00000024, 60)],
    decode c.2.1 = .ok c.1 ∧ IllegalOutsideBuilding c.1 ∧
    ∀ s : State, s.blk.mode = .building →
      (s.blk.opa.toInt < 0 ∨ 1023 < s.blk.opa.toInt → FailsWith c.1 s .outOfRange) ∧
      (0 ≤ s.blk.opa.toInt → s.blk.opa.toInt ≤ 1023 →
        ∃ t, exec c.1 s = .next t ∧ WroteBufAlone s t ∧ Holds10 s t c.2.2 s.blk.opa ∧
          BytesKept s t c.2.2 2)

/-- 41_builder.md R148 to R151: Respect and Strength in byte 62, Experience and Level in byte 63; the
other nibble is kept. -/
def Obligations.NibbleStepsWriteOneNibble : Prop :=
  ∀ c ∈ [(Instr.withRespect, (0x00000025 : Word), 62, true), (Instr.withStrength, 0x00000026, 62, false),
      (Instr.withExperience, 0x00000027, 63, true), (Instr.withLevel, 0x00000028, 63, false)],
    decode c.2.1 = .ok c.1 ∧ IllegalOutsideBuilding c.1 ∧
    ∀ s : State, s.blk.mode = .building →
      (s.blk.opa.toInt < 0 ∨ 15 < s.blk.opa.toInt → FailsWith c.1 s .outOfRange) ∧
      (0 ≤ s.blk.opa.toInt → s.blk.opa.toInt ≤ 15 →
        ∃ t, exec c.1 s = .next t ∧ WroteBufAlone s t ∧
          HoldsNibble s t c.2.2.1 c.2.2.2 s.blk.opa ∧ BytesKept s t c.2.2.1 1)

/-- 41_builder.md R152 to R154: a flag step sets its bit of byte 61 and raises no error in BUILDING. -/
def Obligations.FlagStepsSetOneBit : Prop :=
  ∀ c ∈ [(Instr.withHouse, (0x00000029 : Word), 0), (Instr.withGun, 0x0000002A, 1),
      (Instr.withFamily, 0x0000002B, 2)],
    decode c.2.1 = .ok c.1 ∧ IllegalOutsideBuilding c.1 ∧
    ∀ s : State, s.blk.mode = .building →
      ∃ t, exec c.1 s = .next t ∧ WroteBufAlone s t ∧ HasBitSet s t 61 c.2.2 ∧ BytesKept s t 61 1

/-- 41_builder.md R155. -/
def Obligations.WithTypeWritesTwoBits : Prop :=
  decode 0x0000002C = .ok .withType ∧ IllegalOutsideBuilding .withType ∧
  ∀ s : State, s.blk.mode = .building →
    (s.blk.opa.toInt ≠ 0 → s.blk.opa.toInt ≠ 1 → s.blk.opa.toInt ≠ 2 →
      FailsWith .withType s .outOfRange) ∧
    (s.blk.opa.toInt = 0 ∨ s.blk.opa.toInt = 1 ∨ s.blk.opa.toInt = 2 →
      ∃ t, exec .withType s = .next t ∧ WroteBufAlone s t ∧ BytesKept s t 61 1 ∧
        (t.blk.buf.read 61).extractLsb' 6 2 = s.blk.opa.extractLsb' 0 2 ∧
        (t.blk.buf.read 61).extractLsb' 0 6 = (s.blk.buf.read 61).extractLsb' 0 6)

/-! ### The accessors -/

/-- 42_accessors.md R171. -/
def Obligations.GetNameGivesTheNameLength : Prop :=
  decode 0x00000030 = .ok .getName ∧ IllegalOutsideSealed .getName ∧
  ∀ s : State, s.blk.mode = .sealed →
    ∃ l, NameLength s.blk.buf l ∧ exec .getName s = .next (withResult s (BitVec.ofNat 64 l))

/-- 42_accessors.md R172 to R175. -/
def Obligations.CoordinateAndGoldAccessorsSignExtend : Prop :=
  ∀ c ∈ [(Instr.getX, (0x00000031 : Word), 42), (Instr.getY, 0x00000032, 46),
      (Instr.getZ, 0x00000033, 50), (Instr.getGold, 0x00000034, 54)],
    decode c.2.1 = .ok c.1 ∧ IllegalOutsideSealed c.1 ∧
    ∀ s : State, s.blk.mode = .sealed → exec c.1 s = .next (withResult s (value32 s c.2.2))

/-- 42_accessors.md R176 and R177. -/
def Obligations.ManaAndHealthAccessorsReadTenBits : Prop :=
  ∀ c ∈ [(Instr.getMana, (0x00000035 : Word), 58), (Instr.getHealth, 0x00000036, 60)],
    decode c.2.1 = .ok c.1 ∧ IllegalOutsideSealed c.1 ∧
    ∀ s : State, s.blk.mode = .sealed → exec c.1 s = .next (withResult s (value10At s c.2.2))

/-- 42_accessors.md R178 to R181. -/
def Obligations.NibbleAccessorsReadOneNibble : Prop :=
  ∀ c ∈ [(Instr.getRespect, (0x00000037 : Word), 62, true), (Instr.getStrength, 0x00000038, 62, false),
      (Instr.getExperience, 0x00000039, 63, true), (Instr.getLevel, 0x0000003A, 63, false)],
    decode c.2.1 = .ok c.1 ∧ IllegalOutsideSealed c.1 ∧
    ∀ s : State, s.blk.mode = .sealed →
      exec c.1 s = .next (withResult s (nibbleAt s c.2.2.1 c.2.2.2))

/-- 42_accessors.md R182 to R184. -/
def Obligations.FlagAccessorsReadOneBit : Prop :=
  ∀ c ∈ [(Instr.getHouse, (0x0000003B : Word), 0), (Instr.getGun, 0x0000003C, 1),
      (Instr.getFamily, 0x0000003D, 2)],
    decode c.2.1 = .ok c.1 ∧ IllegalOutsideSealed c.1 ∧
    ∀ s : State, s.blk.mode = .sealed → exec c.1 s = .next (withResult s (bitAt s 61 c.2.2))

/-- 42_accessors.md R185: in SEALED the Type code is bits 7:6 of byte 61, and under the invariant of
the block it is never 3. -/
def Obligations.GetTypeReadsTheTypeCode : Prop :=
  decode 0x0000003E = .ok .getType ∧ IllegalOutsideSealed .getType ∧
  ∀ s : State, s.blk.mode = .sealed →
    exec .getType s = .next (withResult s (BitVec.ofNat 64 ((s.blk.buf.read 61).toNat / 64))) ∧
    (s.Inv → (s.blk.buf.read 61).toNat / 64 ≠ 3)

/-- 42_accessors.md R186: in a sealed state that meets the invariant, every accessor succeeds, leaves
everything but RES and ERR, and its value is in the field's domain. -/
def Obligations.AccessorsAreTotalOverASealedRecord : Prop :=
  ∀ c ∈ [(Instr.getName, (0 : Int), (42 : Int)),
      (.getX, -2147483648, 2147483647), (.getY, -2147483648, 2147483647),
      (.getZ, -2147483648, 2147483647), (.getGold, -2147483648, 2147483647),
      (.getMana, 0, 1023), (.getHealth, 0, 1023), (.getRespect, 0, 15), (.getStrength, 0, 15),
      (.getExperience, 0, 15), (.getLevel, 0, 15), (.getHouse, 0, 1), (.getGun, 0, 1),
      (.getFamily, 0, 1), (.getType, 0, 2)],
    ∀ s : State, s.Inv → s.blk.mode = .sealed →
      ∃ v : DWord, exec c.1 s = .next (withResult s v) ∧ c.2.1 ≤ v.toInt ∧ v.toInt ≤ c.2.2

/-! ### The host registers -/

/-- 10_state.md R31: INFO reads 0x00002A40: BUF_LEN 64 in bits 7:0, NAME_MAX 42 in bits 15:8. -/
def Obligations.InfoReadsItsConstant : Prop :=
  ∀ s rest, step (queued s (.read 0x000 .word :: rest)) = .next (afterRead (queued s rest) 0x00002A40)

/-- 10_state.md R30, with the codes of R27 and R200: the STATUS word, field by field; a write to STATUS
is ignored. -/
def Obligations.StatusReadsModeErrAndAbortCode : Prop :=
  ∀ s rest,
    (∃ v : Word, step (queued s (.read 0x004 .word :: rest)) = .next (afterRead (queued s rest) v) ∧
      v.extractLsb' 0 2 = (match s.blk.mode with | .idle => 0 | .building => 1 | .sealed => 2) ∧
      v.extractLsb' 2 2 = 0 ∧
      v.extractLsb' 4 2 = (match s.blk.err with
        | .ok => 0 | .outOfRange => 1 | .invalidLayout => 2 | .illegalCommand => 3) ∧
      v.extractLsb' 6 2 = 0 ∧
      v.extractLsb' 8 2 = (match s.blk.abortCode with
        | .ok => 0 | .outOfRange => 1 | .invalidLayout => 2 | .illegalCommand => 3) ∧
      v.extractLsb' 10 22 = 0) ∧
    ∀ d, step (queued s (.write 0x004 .word d :: rest)) = .next (queued s rest)

/-- 20_memory.md R54: a read of a half of OPA, OPB, OPC or RES gives its bits; a write of an operand half
sets its bits and leaves the other half and everything else; a write of RES_LO or RES_HI is ignored
(R52). -/
def Obligations.RegisterHalvesReadAndWrite : Prop :=
  ∀ s rest,
    (step (queued s (.read 0x010 .word :: rest)) =
      .next (afterRead (queued s rest) (s.blk.opa.extractLsb' 0 32)) ∧
     step (queued s (.read 0x014 .word :: rest)) =
      .next (afterRead (queued s rest) (s.blk.opa.extractLsb' 32 32)) ∧
     step (queued s (.read 0x018 .word :: rest)) =
      .next (afterRead (queued s rest) (s.blk.opb.extractLsb' 0 32)) ∧
     step (queued s (.read 0x01C .word :: rest)) =
      .next (afterRead (queued s rest) (s.blk.opb.extractLsb' 32 32)) ∧
     step (queued s (.read 0x020 .word :: rest)) =
      .next (afterRead (queued s rest) (s.blk.opc.extractLsb' 0 32)) ∧
     step (queued s (.read 0x024 .word :: rest)) =
      .next (afterRead (queued s rest) (s.blk.opc.extractLsb' 32 32)) ∧
     step (queued s (.read 0x028 .word :: rest)) =
      .next (afterRead (queued s rest) (s.blk.res.extractLsb' 0 32)) ∧
     step (queued s (.read 0x02C .word :: rest)) =
      .next (afterRead (queued s rest) (s.blk.res.extractLsb' 32 32))) ∧
    ∀ d : Word,
      step (queued s (.write 0x028 .word d :: rest)) = .next (queued s rest) ∧
      step (queued s (.write 0x02C .word d :: rest)) = .next (queued s rest) ∧
      step (queued s (.write 0x010 .word d :: rest)) =
        .next { queued s rest with blk := { s.blk with opa := s.blk.opa.extractLsb' 32 32 ++ d } } ∧
      step (queued s (.write 0x014 .word d :: rest)) =
        .next { queued s rest with blk := { s.blk with opa := d ++ s.blk.opa.extractLsb' 0 32 } } ∧
      step (queued s (.write 0x018 .word d :: rest)) =
        .next { queued s rest with blk := { s.blk with opb := s.blk.opb.extractLsb' 32 32 ++ d } } ∧
      step (queued s (.write 0x01C .word d :: rest)) =
        .next { queued s rest with blk := { s.blk with opb := d ++ s.blk.opb.extractLsb' 0 32 } } ∧
      step (queued s (.write 0x020 .word d :: rest)) =
        .next { queued s rest with blk := { s.blk with opc := s.blk.opc.extractLsb' 32 32 ++ d } } ∧
      step (queued s (.write 0x024 .word d :: rest)) =
        .next { queued s rest with blk := { s.blk with opc := d ++ s.blk.opc.extractLsb' 0 32 } }

/-- 20_memory.md R55. -/
def Obligations.BufwinReadsBuf : Prop :=
  ∀ s rest k, k < 64 →
    step (queued s (.read (0x100 + 4 * k) .word :: rest)) =
      .next (afterRead (queued s rest) ((0 : BitVec 24) ++ s.blk.buf.read k)) ∧
    ∀ d, step (queued s (.write (0x100 + 4 * k) .word d :: rest)) = .next (queued s rest)

/-- 20_memory.md R56: a write of NSTAGE[k] keeps the low byte of the word and leaves every other byte
of NSTAGE and everything else, ERR included; a read gives the byte; BEGIN does not clear NSTAGE. -/
def Obligations.NstageWindowReadsAndWrites : Prop :=
  (∀ s rest k, k < 42 →
    step (queued s (.read (0x200 + 4 * k) .word :: rest)) =
      .next (afterRead (queued s rest) ((0 : BitVec 24) ++ s.blk.nstage.read k)) ∧
    ∀ d : Word, ∃ t, step (queued s (.write (0x200 + 4 * k) .word d :: rest)) = .next t ∧
      t = { queued s rest with blk := { s.blk with nstage := t.blk.nstage } } ∧
      t.blk.nstage.read k = d.extractLsb' 0 8 ∧
      ∀ j, j ≠ k → t.blk.nstage.read j = s.blk.nstage.read j) ∧
  ∀ s : State, ∃ t, exec .beginBuild s = .next t ∧ t.blk.nstage = s.blk.nstage

/-- 20_memory.md R52: a write to a read-only or reserved address changes nothing; a read of CMD or of a
reserved address returns 0; no read changes the block. -/
def Obligations.OtherAccessesAreIgnoredOrReadZero : Prop :=
  ∀ s rest a,
    (ReadOnlyOrReserved a → ∀ d, step (queued s (.write a .word d :: rest)) = .next (queued s rest)) ∧
    (WriteOnlyOrReserved a →
      step (queued s (.read a .word :: rest)) = .next (afterRead (queued s rest) 0)) ∧
    (a % 4 = 0 → a ≤ 0xFFC →
      ∃ v, step (queued s (.read a .word :: rest)) = .next (afterRead (queued s rest) v))

/-! ### Invariants and whole-machine rules -/

/-- The invariants hold right after reset. The canonical list is the MODEL's own form of the two
memories (log 6). -/
def Obligations.InvHoldsAtReset : Prop := State.reset.Inv

/-- 10_state.md R38, R39 and 20_memory.md R76: every step keeps the invariants, from every state that
meets them: both memories canonical and of their size, BUF zero in IDLE, the seal conditions in
SEALED. The canonical list is the MODEL's own form of the two memories (log 6). -/
def Obligations.StepKeepsInv : Prop :=
  ∀ s t : State, s.Inv → step s = .next t → t.Inv

/-- The invariant's first clauses say of the bytes what 10_state.md R38 and R39 say. The last two, that
offsets from 64 of BUF and from 42 of NSTAGE read 0, are the MODEL's own choice: they hold of the lists
that stand for the two memories (log 6). The spec says only that the record has 64 bytes and never grows
(20_memory.md R76, section 4) and that NSTAGE has 42 (10_state.md R23, section 3). -/
def Obligations.InvGivesZeroBufAndSealConditions : Prop :=
  ∀ s : State, s.Inv →
    (s.blk.mode = .idle → ∀ a, s.blk.buf.read a = 0) ∧
    (s.blk.mode = .sealed → MayBeSealed s.blk.buf) ∧
    (∀ a, 64 ≤ a → s.blk.buf.read a = 0) ∧ (∀ a, 42 ≤ a → s.blk.nstage.read a = 0)

/-- 41_builder.md R161: while SEALED, no step but BEGIN or reset changes BUF or leaves SEALED, and an
error changes only ERR. -/
def Obligations.SealedRecordIsImmutable : Prop :=
  ∀ s t : State, s.blk.mode = .sealed → step s = .next t → ¬NextReset s → ¬NextCommand s 0x00000001 →
    t.blk.mode = .sealed ∧ t.blk.buf = s.blk.buf ∧
    ((∃ w, NextCommand s w) → t.blk.err ≠ .ok → t.blk = { s.blk with err := t.blk.err })

/-- 10_state.md R27: only BEGIN, SEAL, error entry in a build and reset write MODE. -/
def Obligations.OnlyBeginSealErrorAndResetWriteMode : Prop :=
  ∀ s t : State, step s = .next t → t.blk.mode ≠ s.blk.mode →
    NextReset s ∨ (NextCommand s 0x00000001 ∧ t.blk.mode = .building) ∨
    (NextCommand s 0x00000002 ∧ t.blk.mode = .sealed) ∨
    ((∃ w, NextCommand s w) ∧ s.blk.mode = .building ∧ t.blk.mode = .idle ∧ t.blk.err ≠ .ok)

/-- 10_state.md R29: an error in a build sets ABORT_CODE to its code, BEGIN and reset clear it, and no
other action changes it. -/
def Obligations.AbortCodeKeepsTheAbortingError : Prop :=
  ∀ s t : State, step s = .next t →
    (NextReset s → t.blk.abortCode = .ok) ∧
    (NextCommand s 0x00000001 → t.blk.abortCode = .ok) ∧
    ((∃ w, NextCommand s w) → s.blk.mode = .building → t.blk.err ≠ .ok →
      t.blk.abortCode = t.blk.err) ∧
    (¬NextReset s → ¬NextCommand s 0x00000001 →
      ¬((∃ w, NextCommand s w) ∧ s.blk.mode = .building ∧ t.blk.err ≠ .ok) →
      t.blk.abortCode = s.blk.abortCode)

/-- 10_state.md R26, 70_reset_and_hazards.md R235: RES changes only by reset or by a value-producing
command that succeeds. -/
def Obligations.OnlyASuccessfulReadWritesRes : Prop :=
  ∀ s t : State, step s = .next t → t.blk.res ≠ s.blk.res →
    NextReset s ∨
    ∃ w i, NextCommand s w ∧ decode w = .ok i ∧ ProducesValue i ∧ t.blk.err = .ok

/-- 10_state.md R23, R24: no command writes OPA, OPB, OPC or NSTAGE, nor the host's own side. -/
def Obligations.NoCommandWritesItsOperands : Prop :=
  ∀ (i : Instr) (s t : State), exec i s = .next t →
    t.blk.opa = s.blk.opa ∧ t.blk.opb = s.blk.opb ∧ t.blk.opc = s.blk.opc ∧
    t.blk.nstage = s.blk.nstage ∧ t.pending = s.pending ∧ t.listing = s.listing

/-- A host action that is no CMD write leaves BUF (10_state.md R22, section 2), RES (R26, section 3), MODE,
ERR and ABORT_CODE (R27 to R29, section 4); a read has no side effect, and a write of another register
changes that register or nothing (20_memory.md R67, section 4). A step with no action pending leaves them
too, by the MODEL's own choice (log 3). -/
def Obligations.OtherHostActionsKeepRecordAndStatus : Prop :=
  ∀ s t : State, step s = .next t → ¬NextReset s → (∀ w, ¬NextCommand s w) →
    t.blk.buf = s.blk.buf ∧ t.blk.res = s.blk.res ∧ t.blk.mode = s.blk.mode ∧
    t.blk.err = s.blk.err ∧ t.blk.abortCode = s.blk.abortCode

/-- 20_memory.md R53, 70_reset_and_hazards.md R238: each step of a run whose host actions are all admitted
accesses has a next state. The list of actions is the MODEL's own (log 1), and for k past its end the run
goes on by the MODEL's own choice that a step with nothing pending leaves the state as it is (log 3). -/
def Obligations.AdmittedRunsNeverStop : Prop :=
  ∀ (s : State) (k : Nat), (∀ e ∈ s.pending, ¬BadAccess e) →
    ∃ t, core.run k s = .next t ∧ t.pending = s.pending.drop k

/-! ### Laws of the codec and of the builder -/

/-- 40_codec.md R111, laws 1 to 6. -/
def Obligations.CodecRoundTripAndOverwriteLaws : Prop :=
  ∀ (b : Memory) (off : Nat),
    (∀ v : Int, off + 4 ≤ 64 → ¬OutsideInt32 v →
      ∃ b', cdcWr32 b off v = .ok b' ∧ cdcRd32 b' off = .ok v) ∧
    (∀ v : Int, off + 2 ≤ 64 → 0 ≤ v → v ≤ 1023 →
      ∃ b', cdcWr10 b off v = .ok b' ∧ cdcRd10 b' off = .ok v) ∧
    (∀ (v : Int) (hi : Bool), off + 1 ≤ 64 → 0 ≤ v → v ≤ 15 →
      ∃ b', cdcWrnib b off v hi = .ok b' ∧ cdcRdnib b' off hi = .ok v) ∧
    (∀ i, off + 1 ≤ 64 → i < 8 → ∃ b', cdcSetbit b off i = .ok b' ∧ cdcGetbit b' off i = .ok 1) ∧
    (∀ mask sh (v : Int) b', cdcSetmask b off mask sh v = .ok b' →
      ((b'.read off &&& mask).toNat : Int) = v * 2 ^ sh) ∧
    (b.wf 64 = true →
      (∀ (u v : Int) b', cdcWr32 b off u = .ok b' → cdcWr32 b' off v = cdcWr32 b off v) ∧
      (∀ (u v : Int) b', cdcWr10 b off u = .ok b' → cdcWr10 b' off v = cdcWr10 b off v) ∧
      (∀ (u v : Int) hi b', cdcWrnib b off u hi = .ok b' →
        cdcWrnib b' off v hi = cdcWrnib b off v hi) ∧
      (∀ mask sh (u v : Int) b', cdcSetmask b off mask sh u = .ok b' →
        cdcSetmask b' off mask sh v = cdcSetmask b off mask sh v) ∧
      (∀ i b', cdcSetbit b off i = .ok b' → cdcSetbit b' off i = .ok b'))

/-- 41_builder.md R158: two steps for different fields give the same buffer, or the same error, in
either order, and the error is OUT_OF_RANGE. -/
def Obligations.StepsOfDisjointFieldsCommute : Prop :=
  ∀ (c d : ConfigStep) (b : Memory), b.wf 64 = true → c.field ≠ d.field →
    (c.apply b).bind d.apply = (d.apply b).bind c.apply ∧
    ∀ e, (c.apply b).bind d.apply = .error e → e = .outOfRange

/-- 41_builder.md R159: a second step for the same field leaves what it alone would have left, and a
step changes no bit that its field does not own (20_memory.md R58). -/
def Obligations.LastStepOfAFieldWins : Prop :=
  ∀ (c d : ConfigStep) (b b' : Memory), b.wf 64 = true → c.field = d.field → c.apply b = .ok b' →
    d.apply b' = d.apply b ∧
    ∀ a i, ¬Owns c.field a i → (b'.read a).getLsbD i = (b.read a).getLsbD i

/-- 41_builder.md R160: a build made of steps only never fails the seal check; its one possible error
is OUT_OF_RANGE, and its record's Type is 0, 1 or 2. -/
def Obligations.StepOnlyBuildsNeverFailSeal : Prop :=
  ∀ steps : List ConfigStep,
    (∀ e, build steps = .error e → e = .outOfRange) ∧
    (∀ b, applySteps steps Memory.zeroed = .ok b → MayBeSealed b ∧ build steps = .ok b) ∧
    (∀ b, build steps = .ok b → (b.read 61).toNat / 64 ≤ 2)

/-- 41_builder.md R140, 30_encoding.md R92: from any state, the host sequence BEGIN, steps, SEAL leaves
on the block what `build(steps)` says: the record SEALED, or IDLE, a zero BUF and ABORT_CODE the error.
The steps are those the host can put in the registers (log 16). -/
def Obligations.HostSequenceCarriesOutBuild : Prop :=
  ∀ (steps : List ConfigStep) (s : State), steps.all ConfigStep.expressible = true →
    ∃ t, core.run (buildEvents steps).length (queued s (buildEvents steps)) = .next t ∧
      t.pending = [] ∧ t.listing = s.listing ∧
      match build steps with
      | .ok b => t.blk.mode = .sealed ∧ t.blk.buf = b ∧ t.blk.err = .ok ∧ t.blk.abortCode = .ok
      | .error e => t.blk.mode = .idle ∧ t.blk.buf = Memory.zeroed ∧ t.blk.err ≠ .ok ∧
          t.blk.abortCode = e.code

/-- 42_accessors.md R187, 41_builder.md R157: after a build that seals, each accessor returns the value
of the last step for its field, or the default; the name's length is that of its bytes before the first
zero; a flag reads 1 exactly when its step was applied. -/
def Obligations.AccessorsReadBackTheBuild : Prop :=
  ∀ (steps : List ConfigStep) (b : Memory), build steps = .ok b →
    Reads b .getName (lastOr (fun c => match c with
      | .name bytes => some ((bytes.takeWhile (· ≠ 0)).length : Int) | _ => none) 0 steps) ∧
    Reads b .getX (lastOr (fun c => match c with | .coords x _ _ => some x | _ => none) 0 steps) ∧
    Reads b .getY (lastOr (fun c => match c with | .coords _ y _ => some y | _ => none) 0 steps) ∧
    Reads b .getZ (lastOr (fun c => match c with | .coords _ _ z => some z | _ => none) 0 steps) ∧
    Reads b .getGold (lastOr (fun c => match c with | .gold v => some v | _ => none) 0 steps) ∧
    Reads b .getMana (lastOr (fun c => match c with | .mana v => some v | _ => none) 0 steps) ∧
    Reads b .getHealth (lastOr (fun c => match c with | .health v => some v | _ => none) 0 steps) ∧
    Reads b .getRespect (lastOr (fun c => match c with | .respect v => some v | _ => none) 0 steps) ∧
    Reads b .getStrength (lastOr (fun c => match c with | .strength v => some v | _ => none) 0 steps) ∧
    Reads b .getExperience
      (lastOr (fun c => match c with | .experience v => some v | _ => none) 0 steps) ∧
    Reads b .getLevel (lastOr (fun c => match c with | .level v => some v | _ => none) 0 steps) ∧
    Reads b .getHouse (if .house ∈ steps then 1 else 0) ∧
    Reads b .getGun (if .gun ∈ steps then 1 else 0) ∧
    Reads b .getFamily (if .family ∈ steps then 1 else 0) ∧
    Reads b .getType (lastOr (fun c => match c with | .type v => some v | _ => none) 0 steps)

/-! ### The assembly language -/

/-- 30_encoding.md R91: `lda V` and a command, on the block: after the two operand writes and the CMD
write, the command has run with OPA = tc_64(V). -/
def Obligations.ValuePseudoLoadsThenRuns : Prop :=
  ∀ (i : Instr) (v : Int) (s : State) (es : List Event), (AsmLine.withValue i v).expand = some es →
    core.run es.length (queued s es) =
      exec i { queued s [] with blk := { s.blk with opa := BitVec.ofInt 64 v } }

/-- 30_encoding.md R90: a command line is the CMD write of its word, and the step runs the command; an
operand that does not fit its field is rejected. -/
def Obligations.CommandLineRunsItsCommand : Prop :=
  ∀ (i : Instr) (s : State),
    (i.WellFormed → ∃ es, (AsmLine.cmd i).expand = some es ∧
      core.run es.length (queued s es) = exec i (queued s [])) ∧
    (¬i.WellFormed → (AsmLine.cmd i).expand = none)
end

