-- ==== Sys2Proof/Laws/State.lean ====
section
/-! SUPPORT. One small lemma per field and update of the state, so that no later proof unfolds a
record update. -/

namespace Sys2Proof.Machine

section Commit
variable (b : Block)

@[simp] theorem Block.commit_buf : b.commit.buf = b.buf := rfl
@[simp] theorem Block.commit_nstage : b.commit.nstage = b.nstage := rfl
@[simp] theorem Block.commit_opa : b.commit.opa = b.opa := rfl
@[simp] theorem Block.commit_opb : b.commit.opb = b.opb := rfl
@[simp] theorem Block.commit_opc : b.commit.opc = b.opc := rfl
@[simp] theorem Block.commit_res : b.commit.res = b.res := rfl
@[simp] theorem Block.commit_mode : b.commit.mode = b.mode := rfl
@[simp] theorem Block.commit_err : b.commit.err = .ok := rfl
@[simp] theorem Block.commit_abortCode : b.commit.abortCode = b.abortCode := rfl

end Commit

section Fail
variable (b : Block) (e : CmdError)

@[simp] theorem Block.fail_nstage : (b.fail e).nstage = b.nstage := by
  unfold Block.fail; split <;> rfl
@[simp] theorem Block.fail_opa : (b.fail e).opa = b.opa := by unfold Block.fail; split <;> rfl
@[simp] theorem Block.fail_opb : (b.fail e).opb = b.opb := by unfold Block.fail; split <;> rfl
@[simp] theorem Block.fail_opc : (b.fail e).opc = b.opc := by unfold Block.fail; split <;> rfl
@[simp] theorem Block.fail_res : (b.fail e).res = b.res := by unfold Block.fail; split <;> rfl
@[simp] theorem Block.fail_err : (b.fail e).err = e.code := by unfold Block.fail; split <;> rfl

/-- In BUILDING the build is aborted; elsewhere BUF, MODE and ABORT_CODE stay. -/
theorem Block.fail_building (h : b.mode = .building) :
    b.fail e = { b with buf := Memory.zeroed, mode := .idle, err := e.code, abortCode := e.code } := by
  simp [Block.fail, h]

theorem Block.fail_not_building (h : b.mode ≠ .building) : b.fail e = { b with err := e.code } := by
  unfold Block.fail
  split
  · exact absurd ‹_› h
  · rfl
  · rfl

@[simp] theorem CmdError.code_ne_ok : e.code ≠ .ok := by cases e <;> simp [CmdError.code]

end Fail

section StateUpdates
variable (s : State) (e : CmdError) (w : Word)

@[simp] theorem State.fail_blk : (s.fail e).blk = s.blk.fail e := rfl
@[simp] theorem State.fail_pending : (s.fail e).pending = s.pending := rfl
@[simp] theorem State.fail_listing : (s.fail e).listing = s.listing := rfl
@[simp] theorem State.list_blk : (s.list w).blk = s.blk := rfl
@[simp] theorem State.list_pending : (s.list w).pending = s.pending := rfl
@[simp] theorem State.list_listing : (s.list w).listing = s.listing ++ [w] := rfl
@[simp] theorem State.withFetchWord_blk (nbits n : Nat) : (s.withFetchWord nbits n).blk = s.blk := rfl
@[simp] theorem State.withFetchWord_listing (nbits n : Nat) :
    (s.withFetchWord nbits n).listing = s.listing := rfl
@[simp] theorem State.withFetchWord_pending (nbits n : Nat) :
    (s.withFetchWord nbits n).pending = cmdEvent (BitVec.ofNat 32 (n % 2 ^ nbits)) :: s.pending := rfl

end StateUpdates

section Puts
variable (b : Block)

@[simp] theorem Block.putBuf_ok (m : Memory) : b.putBuf (.ok m) = .ok { b with buf := m } := rfl
@[simp] theorem Block.putBuf_error (e : CmdError) : b.putBuf (.error e) = .error e := rfl
@[simp] theorem Block.putRes_ok (v : Int) : b.putRes (.ok v) = .ok { b with res := BitVec.ofInt 64 v } := rfl
@[simp] theorem Block.putRes_error (e : CmdError) : b.putRes (.error e) = .error e := rfl

/-- A write body that succeeds changed BUF alone. -/
theorem Block.putBuf_eq_ok {r : Except CmdError Memory} {b' : Block} :
    b.putBuf r = .ok b' ↔ ∃ m, r = .ok m ∧ b' = { b with buf := m } := by
  cases r <;> simp [Block.putBuf, eq_comm]

/-- A value-producing body that succeeds changed RES alone. -/
theorem Block.putRes_eq_ok {r : Except CmdError Int} {b' : Block} :
    b.putRes r = .ok b' ↔ ∃ v, r = .ok v ∧ b' = { b with res := BitVec.ofInt 64 v } := by
  cases r <;> simp [Block.putRes, eq_comm]

end Puts

section Reset

@[simp] theorem State.reset_blk : State.reset.blk = Block.reset := rfl
@[simp] theorem State.reset_pending : State.reset.pending = [] := rfl
@[simp] theorem State.reset_listing : State.reset.listing = [] := rfl

end Reset

end Sys2Proof.Machine
end

