-- ==== Sys2Proof/Laws/Bus.lean ====
section
/-! SUPPORT. The host bus: which accesses it admits, the register at a register's address, and what
one step does with each event (20_memory.md R51 to R53, 30_encoding.md R87). -/

namespace Sys2Proof.Machine

/-- The bus admits exactly the aligned 32-bit accesses in 0x000..0xFFC (R53). -/
theorem accessRefusal_eq_none {addr : Nat} {size : AccessSize} :
    accessRefusal addr size = none ↔ size = .word ∧ addr < 4096 ∧ addr % 4 = 0 := by
  unfold accessRefusal
  split
  · simp [*]
  · split
    · simp only [reduceCtorEq, false_iff, Config.regSpaceSize] at *; omega
    · split
      · simp [*]
      · simp_all

/-- A named register is the one at its address (R51); the windows within their bounds. -/
theorem HostReg.ofAddr_addr (r : HostReg) (hb : ∀ k, r = .bufwin k → k < 64)
    (hn : ∀ k, r = .nstage k → k < 42) : HostReg.ofAddr r.addr = r := by
  cases r with
  | bufwin k =>
    have := hb k rfl
    interval_cases k <;> rfl
  | nstage k =>
    have := hn k rfl
    interval_cases k <;> rfl
  | _ => rfl

theorem step_nil {s : State} (h : s.pending = []) : step s = .next s := by
  simp [step, stepPending, h]

theorem step_cons {s : State} {e : Event} {rest : List Event} (h : s.pending = e :: rest) :
    step s = perform e { s with pending := rest } := by
  simp [step, stepPending, h]

/-- A CMD write runs the command cycle (R87). -/
theorem perform_cmdEvent (w : Word) (s : State) : perform (cmdEvent w) s = cmdWrite w s := rfl

theorem cmdWrite_ok {w : Word} {i : Instr} (h : decode w = .ok i) (s : State) :
    cmdWrite w s = exec i s := by
  simp [cmdWrite, h]

theorem cmdWrite_error {w : Word} {r : Reject} (h : decode w = .error r) (s : State) :
    cmdWrite w s = .next (s.fail .illegalCommand) := by
  simp [cmdWrite, h]

theorem perform_read {addr : Nat} {s : State} (h : accessRefusal addr .word = none) :
    perform (.read addr .word) s = .next (s.list (s.blk.readReg (HostReg.ofAddr addr))) := by
  simp [perform, h, hostRead]

theorem perform_write {addr : Nat} {d : Word} {s : State} (h : accessRefusal addr .word = none)
    (hc : HostReg.ofAddr addr ≠ .cmd) :
    perform (.write addr .word d) s =
      .next { s with blk := s.blk.writeReg d (HostReg.ofAddr addr) } := by
  simp [perform, h, hostWrite, hc]

theorem perform_reset (s : State) : perform .reset s = .next { s with blk := Block.reset } := rfl

end Sys2Proof.Machine
end

