-- ==== Sys2Proof/Laws/Decode.lean ====
section
/-! SUPPORT. The fields of a command word: reading them back from the word, and the word from them
(30_encoding.md R81), and the words that use some fields only, under the masks of R113 to R121. -/

namespace Sys2Proof

@[simp] theorem CmdFields.ofWord_toWord (f : CmdFields) : CmdFields.ofWord f.toWord = f := by
  obtain ⟨opc, off, mask, sh, hi, rsv⟩ := f
  simp only [CmdFields.ofWord, CmdFields.toWord, CmdFields.mk.injEq]
  refine ⟨?_, ?_, ?_, ?_, ?_, ?_⟩
  · apply BitVec.eq_of_getLsbD_eq; intro i h; interval_cases i <;> simp
  · apply BitVec.eq_of_getLsbD_eq; intro i h; interval_cases i <;> simp
  · apply BitVec.eq_of_getLsbD_eq; intro i h; interval_cases i <;> simp
  · apply BitVec.eq_of_getLsbD_eq; intro i h; interval_cases i <;> simp
  · simp
  · apply BitVec.eq_of_getLsbD_eq; intro i h; interval_cases i <;> simp

@[simp] theorem CmdFields.toWord_ofWord (w : Word) : (CmdFields.ofWord w).toWord = w := by
  apply BitVec.eq_of_getLsbD_eq
  intro i hi
  interval_cases i <;> simp [CmdFields.ofWord, CmdFields.toWord]

theorem mask_off (opc off : Byte) :
    ({ opc := opc, off := off } : CmdFields).toWord &&& 0xFFFF00FF = opc.setWidth 32 := by
  apply BitVec.eq_of_getLsbD_eq
  intro i hi
  interval_cases i <;> simp [CmdFields.toWord]

theorem mask_offHi (opc off : Byte) (hi : Bool) :
    ({ opc := opc, off := off, hi := hi } : CmdFields).toWord &&& 0xF7FF00FF = opc.setWidth 32 := by
  apply BitVec.eq_of_getLsbD_eq
  intro i hi
  interval_cases i <;> simp [CmdFields.toWord]

theorem mask_offSh (opc off : Byte) (sh : BitVec 3) :
    ({ opc := opc, off := off, sh := sh } : CmdFields).toWord &&& 0xF8FF00FF = opc.setWidth 32 := by
  apply BitVec.eq_of_getLsbD_eq
  intro i hi
  interval_cases i <;> simp [CmdFields.toWord]

theorem mask_offMaskSh (opc off mask : Byte) (sh : BitVec 3) :
    ({ opc := opc, off := off, mask := mask, sh := sh } : CmdFields).toWord &&& 0xF80000FF =
      opc.setWidth 32 := by
  apply BitVec.eq_of_getLsbD_eq
  intro i hi
  interval_cases i <;> simp [CmdFields.toWord]

/-- An accepted command is the one given, with RSV and every unused field 0 (R82). -/
theorem accept_eq_ok {u : UsedFields} {f : CmdFields} {i j : Instr} :
    accept u f i = .ok j ↔ f.rsv = 0 ∧ unusedZero u f = true ∧ i = j := by
  unfold accept
  split
  · exact ⟨fun h => (nomatch h), fun h => absurd h.1 ‹_›⟩
  · split <;> simp_all

end Sys2Proof
end

