-- ==== Sys2Proof/Laws/Memory.lean ====
section
/-! SUPPORT. The laws of a memory: a read after a write, the canonical form kept by every operation,
and equality of canonical memories from equality of their bytes. -/

namespace Sys2Proof.Machine

@[simp] theorem Memory.read_nil (a : Nat) : Memory.read [] a = 0 := rfl

@[simp] theorem Memory.read_zeroed (a : Nat) : Memory.zeroed.read a = 0 := rfl

theorem Memory.read_cons (k : Nat) (x : Byte) (m : Memory) (a : Nat) :
    Memory.read ((k, x) :: m) a = if k = a then x else Memory.read m a := rfl

theorem Memory.read_drop_same (m : Memory) (a : Nat) : (m.drop a).read a = 0 := by
  induction m with
  | nil => rfl
  | cons c m ih =>
    obtain ⟨l, y⟩ := c
    simp only [Memory.drop]
    split
    · exact ih
    · simp [Memory.read_cons, *]

theorem Memory.read_drop_other (m : Memory) {a k : Nat} (h : k ≠ a) : (m.drop a).read k = m.read k := by
  induction m with
  | nil => rfl
  | cons c m ih =>
    obtain ⟨l, y⟩ := c
    simp only [Memory.drop]
    split
    · rename_i hc
      rw [ih, Memory.read_cons, if_neg (by omega)]
    · simp [Memory.read_cons, ih]

theorem Memory.read_put_other (m : Memory) {a k : Nat} (x : Byte) (h : k ≠ a) :
    (m.put a x).read k = m.read k := by
  induction m with
  | nil => simp [Memory.put, Memory.read_cons, Ne.symm h]
  | cons c m ih =>
    obtain ⟨l, y⟩ := c
    simp only [Memory.put]
    split
    · rw [Memory.read_cons, if_neg (Ne.symm h)]
    · simp [Memory.read_cons, ih]

theorem Memory.read_put_drop (m : Memory) (a : Nat) (x : Byte) : ((m.drop a).put a x).read a = x := by
  induction m with
  | nil => simp [Memory.drop, Memory.put, Memory.read_cons]
  | cons c m ih =>
    obtain ⟨l, y⟩ := c
    simp only [Memory.drop]
    split
    · exact ih
    · simp only [Memory.put]
      split
      · simp [Memory.read_cons]
      · rw [Memory.read_cons, if_neg ‹_›, ih]

/-- A read after a write to the same offset gives the byte written, in every memory. -/
@[simp] theorem Memory.read_write_same (m : Memory) (a : Nat) (x : Byte) : (m.write a x).read a = x := by
  unfold Memory.write
  split
  · rename_i h
    rw [Memory.read_drop_same, h, Memory.unlisted]
  · exact Memory.read_put_drop m a x

/-- A write leaves every other byte alone, in every memory. -/
theorem Memory.read_write_other (m : Memory) {a k : Nat} (x : Byte) (h : k ≠ a) :
    (m.write a x).read k = m.read k := by
  unfold Memory.write
  split
  · exact Memory.read_drop_other m h
  · rw [Memory.read_put_other _ _ h, Memory.read_drop_other m h]

theorem Memory.read_write (m : Memory) (a k : Nat) (x : Byte) :
    (m.write a x).read k = if k = a then x else m.read k := by
  split
  · rename_i h; rw [h, Memory.read_write_same]
  · exact Memory.read_write_other m x ‹_›

/-- A big-endian write as seen by a read of one byte. -/
theorem Memory.read_writeBE32 (m : Memory) (off k : Nat) (w : Word) :
    (m.writeBE32 off w).read k =
      if k = off + 3 then w.extractLsb' 0 8
      else if k = off + 2 then w.extractLsb' 8 8
      else if k = off + 1 then w.extractLsb' 16 8
      else if k = off then w.extractLsb' 24 8
      else m.read k := by
  simp only [Memory.writeBE32, Memory.read_write]

/-- A filled range as seen by a read of one byte. -/
theorem Memory.read_fill (m : Memory) (start n k : Nat) (f : Nat → Byte) :
    (m.fill start n f).read k = if start ≤ k ∧ k < start + n then f (k - start) else m.read k := by
  induction n with
  | zero => simp only [Memory.fill]; rw [if_neg (by omega)]
  | succ n ih =>
    rw [Memory.fill, Memory.read_write, ih]
    by_cases h : k = start + n
    · subst h
      rw [if_pos rfl, if_pos (by omega), Nat.add_sub_cancel_left]
    · rw [if_neg h]
      by_cases h' : start ≤ k ∧ k < start + n
      · rw [if_pos h', if_pos (by omega)]
      · rw [if_neg h', if_neg (by omega)]

section CanonicalForm

theorem Memory.wfFrom_mono {lo lo' size : Nat} {m : Memory} (h : lo' ≤ lo)
    (hm : Memory.wfFrom lo size m = true) : Memory.wfFrom lo' size m = true := by
  cases m with
  | nil => rfl
  | cons c m =>
    simp only [Memory.wfFrom, Bool.and_eq_true, decide_eq_true_eq] at hm ⊢
    exact ⟨⟨⟨by omega, hm.1.1.2⟩, hm.1.2⟩, hm.2⟩

theorem Memory.wfFrom_drop {lo size : Nat} {m : Memory} (a : Nat)
    (hm : Memory.wfFrom lo size m = true) : Memory.wfFrom lo size (m.drop a) = true := by
  induction m generalizing lo with
  | nil => rfl
  | cons c m ih =>
    simp only [Memory.wfFrom, Bool.and_eq_true, decide_eq_true_eq] at hm
    simp only [Memory.drop]
    split
    · exact Memory.wfFrom_mono (by omega) (ih hm.2)
    · simp only [Memory.wfFrom, Bool.and_eq_true, decide_eq_true_eq]
      exact ⟨hm.1, ih hm.2⟩

theorem Memory.wfFrom_put_drop {lo size a : Nat} {m : Memory} {x : Byte} (hlo : lo ≤ a)
    (ha : a < size) (hx : x ≠ Memory.unlisted) (hm : Memory.wfFrom lo size m = true) :
    Memory.wfFrom lo size ((m.drop a).put a x) = true := by
  induction m generalizing lo with
  | nil => simp [Memory.drop, Memory.put, Memory.wfFrom, hlo, ha, hx]
  | cons c m ih =>
    simp only [Memory.wfFrom, Bool.and_eq_true, decide_eq_true_eq] at hm
    simp only [Memory.drop]
    split
    · exact ih hlo (Memory.wfFrom_mono (by omega) hm.2)
    · simp only [Memory.put]
      split
      · simp only [Memory.wfFrom, Bool.and_eq_true, decide_eq_true_eq]
        exact ⟨⟨⟨hlo, ha⟩, hx⟩, ⟨⟨by omega, hm.1.1.2⟩, hm.1.2⟩, Memory.wfFrom_drop a hm.2⟩
      · simp only [Memory.wfFrom, Bool.and_eq_true, decide_eq_true_eq]
        exact ⟨hm.1, ih (by omega) hm.2⟩

@[simp] theorem Memory.wf_nil (size : Nat) : Memory.wf size [] = true := rfl

@[simp] theorem Memory.wf_zeroed (size : Nat) : Memory.zeroed.wf size = true := rfl

/-- A write inside the memory keeps the canonical form. -/
theorem Memory.wf_write {size a : Nat} {m : Memory} (x : Byte) (ha : a < size)
    (hm : m.wf size = true) : (m.write a x).wf size = true := by
  unfold Memory.write
  split
  · exact Memory.wfFrom_drop a hm
  · exact Memory.wfFrom_put_drop (Nat.zero_le _) ha ‹_› hm

theorem Memory.wf_writeBE32 {size off : Nat} {m : Memory} (w : Word) (h : off + 4 ≤ size)
    (hm : m.wf size = true) : (m.writeBE32 off w).wf size = true :=
  Memory.wf_write _ (by omega) <| Memory.wf_write _ (by omega) <|
    Memory.wf_write _ (by omega) <| Memory.wf_write _ (by omega) hm

theorem Memory.wf_fill {size start : Nat} {m : Memory} {n : Nat} (f : Nat → Byte)
    (h : start + n ≤ size) (hm : m.wf size = true) : (m.fill start n f).wf size = true := by
  induction n with
  | zero => exact hm
  | succ n ih => exact Memory.wf_write _ (by omega) (ih (by omega))

theorem Memory.read_below {lo size : Nat} {m : Memory} {a : Nat} (hm : Memory.wfFrom lo size m = true)
    (ha : a < lo) : m.read a = 0 := by
  induction m generalizing lo with
  | nil => rfl
  | cons c m ih =>
    simp only [Memory.wfFrom, Bool.and_eq_true, decide_eq_true_eq] at hm
    rw [Memory.read_cons, if_neg (by omega)]
    exact ih hm.2 (by omega)

theorem Memory.wfFrom_ext {lo size : Nat} {m n : Memory} (hm : Memory.wfFrom lo size m = true)
    (hn : Memory.wfFrom lo size n = true) (h : ∀ a, m.read a = n.read a) : m = n := by
  induction m generalizing lo n with
  | nil =>
    cases n with
    | nil => rfl
    | cons d n =>
      simp only [Memory.wfFrom, Bool.and_eq_true, decide_eq_true_eq] at hn
      have := h d.1
      rw [Memory.read_nil, Memory.read_cons, if_pos rfl] at this
      exact absurd this.symm hn.1.2
  | cons c m ih =>
    simp only [Memory.wfFrom, Bool.and_eq_true, decide_eq_true_eq] at hm
    cases n with
    | nil =>
      have := h c.1
      rw [Memory.read_nil, Memory.read_cons, if_pos rfl] at this
      exact absurd this hm.1.2
    | cons d n =>
      simp only [Memory.wfFrom, Bool.and_eq_true, decide_eq_true_eq] at hn
      obtain ⟨k, x⟩ := c
      obtain ⟨l, y⟩ := d
      have hkl : k = l := by
        rcases Nat.lt_trichotomy k l with hlt | heq | hgt
        · have hk := h k
          rw [Memory.read_cons, if_pos rfl, Memory.read_cons, if_neg (by omega),
            Memory.read_below hn.2 (by omega)] at hk
          exact absurd hk hm.1.2
        · exact heq
        · have hl := h l
          rw [Memory.read_cons, if_neg (by omega), Memory.read_cons, if_pos rfl,
            Memory.read_below hm.2 (by omega)] at hl
          exact absurd hl.symm hn.1.2
      subst hkl
      have hxy : x = y := by simpa [Memory.read_cons] using h k
      subst hxy
      have hmn : m = n := by
        refine ih hm.2 hn.2 fun a => ?_
        by_cases hak : a = k
        · subst hak
          rw [Memory.read_below hm.2 (by omega), Memory.read_below hn.2 (by omega)]
        · simpa [Memory.read_cons, Ne.symm hak] using h a
      rw [hmn]

/-- Canonical memories with the same bytes are the same memory. -/
theorem Memory.ext_of_wf {size : Nat} {m n : Memory} (hm : m.wf size = true) (hn : n.wf size = true)
    (h : ∀ a, m.read a = n.read a) : m = n :=
  Memory.wfFrom_ext hm hn h

/-- A canonical memory whose every byte is 0x00 is the zeroed memory. -/
theorem Memory.eq_zeroed_of_wf {size : Nat} {m : Memory} (hm : m.wf size = true)
    (h : ∀ a, m.read a = 0) : m = Memory.zeroed :=
  Memory.ext_of_wf hm (Memory.wf_zeroed size) fun a => by rw [h a, Memory.read_zeroed]

end CanonicalForm

end Sys2Proof.Machine
end

