-- ==== Sys2Proof/Laws/Ops.lean ====
section
/-! SUPPORT. What the command cycle can do, said once: it is illegal in the mode, its body fails, or
its body's writes take effect (30_encoding.md R86, R87). -/

namespace Sys2Proof.Machine

variable {b : Block} {legal : Mode → Bool} {body : Block → Except CmdError Block}

theorem Block.command_illegal (h : legal b.mode = false) :
    b.command legal body = b.fail .illegalCommand := by
  simp [Block.command, h]

theorem Block.command_error {e : CmdError} (h : legal b.mode = true) (hb : body b = .error e) :
    b.command legal body = b.fail e := by
  simp [Block.command, h, hb]

theorem Block.command_ok {b' : Block} (h : legal b.mode = true) (hb : body b = .ok b') :
    b.command legal body = b'.commit := by
  simp [Block.command, h, hb]

/-- The three ways a command ends. -/
theorem Block.command_cases (b : Block) (legal : Mode → Bool) (body : Block → Except CmdError Block) :
    (legal b.mode = false ∧ b.command legal body = b.fail .illegalCommand) ∨
    (∃ e, legal b.mode = true ∧ body b = .error e ∧ b.command legal body = b.fail e) ∨
    (∃ b', legal b.mode = true ∧ body b = .ok b' ∧ b.command legal body = b'.commit) := by
  cases h : legal b.mode with
  | false => exact .inl ⟨rfl, Block.command_illegal h⟩
  | true =>
    cases hb : body b with
    | error e => exact .inr (.inl ⟨e, rfl, rfl, Block.command_error h hb⟩)
    | ok b' => exact .inr (.inr ⟨b', rfl, rfl, Block.command_ok h hb⟩)

theorem State.command_eq (s : State) :
    s.command legal body = .next { s with blk := s.blk.command legal body } := rfl

theorem anyMode_eq_true (m : Mode) : anyMode m = true := by cases m <;> rfl

theorem buildingOnly_iff (m : Mode) : buildingOnly m = true ↔ m = .building := by cases m <;> decide

theorem sealedOnly_iff (m : Mode) : sealedOnly m = true ↔ m = .sealed := by cases m <;> decide

end Sys2Proof.Machine
end

