-- ==== Sys2Proof/Laws/PerInstr.lean ====
section
/-! SUPPORT. Per-instruction families over the syntax: each command's word matches its own row of
spec/opcode_table.json (30_encoding.md R85 clause 2). -/

namespace Sys2Proof.Laws.WordMatchesOpcodeTable

/-- The row of the command's mnemonic is in the table, and the command's word has that row's match
under that row's mask. -/
def Statement (i : Instr) : Prop :=
  ∃ r ∈ opcodeTable, r.mnemonic = i.mnemonic ∧ r.Matches (encode i)

/-- A row at a known place of the table. -/
theorem of_row {i : Instr} (k : Nat) (r : OpcodeRow) (hk : opcodeTable[k]? = some r)
    (hm : r.mnemonic = i.mnemonic) (hw : r.Matches (encode i)) : Statement i :=
  ⟨r, List.mem_of_getElem? hk, hm, hw⟩

theorem beginBuild : Statement .beginBuild :=
  of_row 0 ⟨"BEGIN", 0xFFFFFFFF, 0x00000001⟩ rfl rfl (by decide)

theorem sealRecord : Statement .sealRecord :=
  of_row 1 ⟨"SEAL", 0xFFFFFFFF, 0x00000002⟩ rfl rfl (by decide)

theorem wr32 (off : Nat) : Statement (.wr32 off) :=
  of_row 2 ⟨"WR32", 0xFFFF00FF, 0x00000010⟩ rfl rfl (mask_off _ _)

theorem rd32 (off : Nat) : Statement (.rd32 off) :=
  of_row 3 ⟨"RD32", 0xFFFF00FF, 0x00000011⟩ rfl rfl (mask_off _ _)

theorem wr10 (off : Nat) : Statement (.wr10 off) :=
  of_row 4 ⟨"WR10", 0xFFFF00FF, 0x00000012⟩ rfl rfl (mask_off _ _)

theorem rd10 (off : Nat) : Statement (.rd10 off) :=
  of_row 5 ⟨"RD10", 0xFFFF00FF, 0x00000013⟩ rfl rfl (mask_off _ _)

theorem wrnib (off : Nat) (hi : Bool) : Statement (.wrnib off hi) :=
  of_row 6 ⟨"WRNIB", 0xF7FF00FF, 0x00000014⟩ rfl rfl (mask_offHi _ _ _)

theorem rdnib (off : Nat) (hi : Bool) : Statement (.rdnib off hi) :=
  of_row 7 ⟨"RDNIB", 0xF7FF00FF, 0x00000015⟩ rfl rfl (mask_offHi _ _ _)

theorem setbit (off : Nat) (sh : Nat) : Statement (.setbit off sh) :=
  of_row 8 ⟨"SETBIT", 0xF8FF00FF, 0x00000016⟩ rfl rfl (mask_offSh _ _ _)

theorem getbit (off : Nat) (sh : Nat) : Statement (.getbit off sh) :=
  of_row 9 ⟨"GETBIT", 0xF8FF00FF, 0x00000017⟩ rfl rfl (mask_offSh _ _ _)

theorem setmask (off : Nat) (mask : Byte) (sh : Nat) : Statement (.setmask off mask sh) :=
  of_row 10 ⟨"SETMASK", 0xF80000FF, 0x00000018⟩ rfl rfl (mask_offMaskSh _ _ _ _)

theorem withName (len : Nat) : Statement (.withName len) :=
  of_row 11 ⟨"WITH.NAME", 0xFFFF00FF, 0x00000020⟩ rfl rfl (mask_off _ _)

theorem withCoords : Statement .withCoords :=
  of_row 12 ⟨"WITH.COORDS", 0xFFFFFFFF, 0x00000021⟩ rfl rfl (by decide)

theorem withGold : Statement .withGold :=
  of_row 13 ⟨"WITH.GOLD", 0xFFFFFFFF, 0x00000022⟩ rfl rfl (by decide)

theorem withMana : Statement .withMana :=
  of_row 14 ⟨"WITH.MANA", 0xFFFFFFFF, 0x00000023⟩ rfl rfl (by decide)

theorem withHealth : Statement .withHealth :=
  of_row 15 ⟨"WITH.HEALTH", 0xFFFFFFFF, 0x00000024⟩ rfl rfl (by decide)

theorem withRespect : Statement .withRespect :=
  of_row 16 ⟨"WITH.RESPECT", 0xFFFFFFFF, 0x00000025⟩ rfl rfl (by decide)

theorem withStrength : Statement .withStrength :=
  of_row 17 ⟨"WITH.STRENGTH", 0xFFFFFFFF, 0x00000026⟩ rfl rfl (by decide)

theorem withExperience : Statement .withExperience :=
  of_row 18 ⟨"WITH.EXPERIENCE", 0xFFFFFFFF, 0x00000027⟩ rfl rfl (by decide)

theorem withLevel : Statement .withLevel :=
  of_row 19 ⟨"WITH.LEVEL", 0xFFFFFFFF, 0x00000028⟩ rfl rfl (by decide)

theorem withHouse : Statement .withHouse :=
  of_row 20 ⟨"WITH.HOUSE", 0xFFFFFFFF, 0x00000029⟩ rfl rfl (by decide)

theorem withGun : Statement .withGun :=
  of_row 21 ⟨"WITH.GUN", 0xFFFFFFFF, 0x0000002A⟩ rfl rfl (by decide)

theorem withFamily : Statement .withFamily :=
  of_row 22 ⟨"WITH.FAMILY", 0xFFFFFFFF, 0x0000002B⟩ rfl rfl (by decide)

theorem withType : Statement .withType :=
  of_row 23 ⟨"WITH.TYPE", 0xFFFFFFFF, 0x0000002C⟩ rfl rfl (by decide)

theorem getName : Statement .getName :=
  of_row 24 ⟨"GET.NAME", 0xFFFFFFFF, 0x00000030⟩ rfl rfl (by decide)

theorem getX : Statement .getX :=
  of_row 25 ⟨"GET.X", 0xFFFFFFFF, 0x00000031⟩ rfl rfl (by decide)

theorem getY : Statement .getY :=
  of_row 26 ⟨"GET.Y", 0xFFFFFFFF, 0x00000032⟩ rfl rfl (by decide)

theorem getZ : Statement .getZ :=
  of_row 27 ⟨"GET.Z", 0xFFFFFFFF, 0x00000033⟩ rfl rfl (by decide)

theorem getGold : Statement .getGold :=
  of_row 28 ⟨"GET.GOLD", 0xFFFFFFFF, 0x00000034⟩ rfl rfl (by decide)

theorem getMana : Statement .getMana :=
  of_row 29 ⟨"GET.MANA", 0xFFFFFFFF, 0x00000035⟩ rfl rfl (by decide)

theorem getHealth : Statement .getHealth :=
  of_row 30 ⟨"GET.HEALTH", 0xFFFFFFFF, 0x00000036⟩ rfl rfl (by decide)

theorem getRespect : Statement .getRespect :=
  of_row 31 ⟨"GET.RESPECT", 0xFFFFFFFF, 0x00000037⟩ rfl rfl (by decide)

theorem getStrength : Statement .getStrength :=
  of_row 32 ⟨"GET.STRENGTH", 0xFFFFFFFF, 0x00000038⟩ rfl rfl (by decide)

theorem getExperience : Statement .getExperience :=
  of_row 33 ⟨"GET.EXPERIENCE", 0xFFFFFFFF, 0x00000039⟩ rfl rfl (by decide)

theorem getLevel : Statement .getLevel :=
  of_row 34 ⟨"GET.LEVEL", 0xFFFFFFFF, 0x0000003A⟩ rfl rfl (by decide)

theorem getHouse : Statement .getHouse :=
  of_row 35 ⟨"GET.HOUSE", 0xFFFFFFFF, 0x0000003B⟩ rfl rfl (by decide)

theorem getGun : Statement .getGun :=
  of_row 36 ⟨"GET.GUN", 0xFFFFFFFF, 0x0000003C⟩ rfl rfl (by decide)

theorem getFamily : Statement .getFamily :=
  of_row 37 ⟨"GET.FAMILY", 0xFFFFFFFF, 0x0000003D⟩ rfl rfl (by decide)

theorem getType : Statement .getType :=
  of_row 38 ⟨"GET.TYPE", 0xFFFFFFFF, 0x0000003E⟩ rfl rfl (by decide)

end Sys2Proof.Laws.WordMatchesOpcodeTable
end

