-- ==== Sys2Proof/Laws/Primitives.lean ====
section
/-! SUPPORT. When each codec primitive succeeds and with what (40_codec.md R102 to R110), and that
every write primitive keeps the canonical form. -/

namespace Sys2Proof.Machine

theorem inInt32_iff (v : Int) : inInt32 v = true ↔ -2147483648 ≤ v ∧ v ≤ 2147483647 := by
  simp [inInt32]

theorem inU10_iff (v : Int) : inU10 v = true ↔ 0 ≤ v ∧ v ≤ 1023 := by simp [inU10]

theorem inU4_iff (v : Int) : inU4 v = true ↔ 0 ≤ v ∧ v ≤ 15 := by simp [inU4]

theorem isTypeCode_iff (v : Int) : isTypeCode v = true ↔ 0 ≤ v ∧ v ≤ 2 := by simp [isTypeCode]

theorem fitsBuf_iff (off n : Nat) : fitsBuf off n = true ↔ off + n ≤ 64 := by simp [fitsBuf]

variable {b b' : Memory} {off : Nat} {v : Int}

theorem cdcWr32_eq_ok :
    cdcWr32 b off v = .ok b' ↔
      inInt32 v = true ∧ fitsBuf off 4 = true ∧ b' = b.writeBE32 off (BitVec.ofInt 32 v) := by
  unfold cdcWr32
  cases inInt32 v <;> cases fitsBuf off 4 <;> simp [eq_comm]

theorem cdcWr10_eq_ok :
    cdcWr10 b off v = .ok b' ↔
      inU10 v = true ∧ fitsBuf off 2 = true ∧
        b' = (b.write off ((BitVec.ofInt 10 v).extractLsb' 0 8)).write (off + 1)
          (merge10 (b.read (off + 1)) (BitVec.ofInt 10 v)) := by
  unfold cdcWr10
  cases inU10 v <;> cases fitsBuf off 2 <;> simp [eq_comm]

theorem cdcWrnib_eq_ok {hi : Bool} :
    cdcWrnib b off v hi = .ok b' ↔
      inU4 v = true ∧ fitsBuf off 1 = true ∧
        b' = b.write off (mergeNib (b.read off) hi (BitVec.ofInt 4 v)) := by
  unfold cdcWrnib
  cases inU4 v <;> cases fitsBuf off 1 <;> simp [eq_comm]

theorem cdcSetbit_eq_ok {i : Nat} :
    cdcSetbit b off i = .ok b' ↔
      fitsBuf off 1 = true ∧ b' = b.write off (b.read off ||| ((1 : Byte) <<< i)) := by
  unfold cdcSetbit
  cases fitsBuf off 1 <;> simp [eq_comm]

theorem cdcSetmask_eq_ok {mask : Byte} {sh : Nat} :
    cdcSetmask b off mask sh v = .ok b' ↔
      fitsMask mask sh v = true ∧ fitsBuf off 1 = true ∧
        b' = b.write off ((b.read off &&& ~~~mask) ||| BitVec.ofNat 8 (v.toNat <<< sh)) := by
  unfold cdcSetmask
  cases fitsMask mask sh v <;> cases fitsBuf off 1 <;> simp [eq_comm]

theorem cdcWr32_wf (hb : b.wf 64 = true) (h : cdcWr32 b off v = .ok b') : b'.wf 64 = true := by
  obtain ⟨-, hf, rfl⟩ := cdcWr32_eq_ok.mp h
  exact Memory.wf_writeBE32 _ ((fitsBuf_iff _ _).mp hf) hb

theorem cdcWr10_wf (hb : b.wf 64 = true) (h : cdcWr10 b off v = .ok b') : b'.wf 64 = true := by
  obtain ⟨-, hf, rfl⟩ := cdcWr10_eq_ok.mp h
  have := (fitsBuf_iff _ _).mp hf
  exact Memory.wf_write _ (by omega) (Memory.wf_write _ (by omega) hb)

theorem cdcWrnib_wf {hi : Bool} (hb : b.wf 64 = true) (h : cdcWrnib b off v hi = .ok b') :
    b'.wf 64 = true := by
  obtain ⟨-, hf, rfl⟩ := cdcWrnib_eq_ok.mp h
  exact Memory.wf_write _ (by have := (fitsBuf_iff _ _).mp hf; omega) hb

theorem cdcSetbit_wf {i : Nat} (hb : b.wf 64 = true) (h : cdcSetbit b off i = .ok b') :
    b'.wf 64 = true := by
  obtain ⟨hf, rfl⟩ := cdcSetbit_eq_ok.mp h
  exact Memory.wf_write _ (by have := (fitsBuf_iff _ _).mp hf; omega) hb

theorem cdcSetmask_wf {mask : Byte} {sh : Nat} (hb : b.wf 64 = true)
    (h : cdcSetmask b off mask sh v = .ok b') : b'.wf 64 = true := by
  obtain ⟨-, hf, rfl⟩ := cdcSetmask_eq_ok.mp h
  exact Memory.wf_write _ (by have := (fitsBuf_iff _ _).mp hf; omega) hb

theorem cdcRd32_eq_ok {r : Int} :
    cdcRd32 b off = .ok r ↔ fitsBuf off 4 = true ∧ r = (b.readBE32 off).toInt := by
  unfold cdcRd32
  cases fitsBuf off 4 <;> simp [eq_comm]

theorem cdcRd10_eq_ok {r : Int} :
    cdcRd10 b off = .ok r ↔
      fitsBuf off 2 = true ∧ r = (value10 (b.read off) (b.read (off + 1))).toNat := by
  unfold cdcRd10
  cases fitsBuf off 2 <;> simp [eq_comm]

theorem cdcGetbit_eq_ok {i : Nat} {r : Int} :
    cdcGetbit b off i = .ok r ↔ fitsBuf off 1 = true ∧ r = ((b.read off >>> i) &&& 0x01#8).toNat := by
  unfold cdcGetbit
  cases fitsBuf off 1 <;> simp [eq_comm]

theorem cdcRdnib_eq_ok {hi : Bool} {r : Int} :
    cdcRdnib b off hi = .ok r ↔
      fitsBuf off 1 = true ∧
        r = if hi then ((b.read off >>> 4).toNat : Int) else ((b.read off &&& 0x0F#8).toNat : Int) := by
  unfold cdcRdnib
  cases fitsBuf off 1 <;> cases hi <;> simp [eq_comm]

end Sys2Proof.Machine
end

