-- ==== Sys2Proof/Tests/Slice0.lean ====
section
/-! SUPPORT. The model's own tests. Expected values are those of spec/95_test_vectors.md (its table is
named beside each group) or are computed by hand from the rule named. Then one witness for the
hypotheses of each obligation that has any. -/

namespace Sys2Proof.Tests

open Sys2Proof.Machine Sys2Proof.Claims

/-- A state in a mode, with OPA and BUF given and all else as after reset. -/
def inMode (m : Mode) (opa : DWord) (buf : Memory) : State :=
  { State.reset with blk := { Block.reset with mode := m, opa := opa, buf := buf } }

/-- A value of the block after an outcome, none where it is no next state. -/
def after {α : Type} (o : Host.Outcome State Fault Refusal) (f : Block → α) : Option α :=
  match o with
  | .next t => some (f t.blk)
  | .fault _ => none
  | .refused _ => none

/-- The last word of the listing after an outcome. -/
def shown (o : Host.Outcome State Fault Refusal) : Option Word :=
  match o with
  | .next t => t.listing.getLast?
  | .fault _ => none
  | .refused _ => none

/-- The reason of a refusal. -/
def refusal (o : Host.Outcome State Fault Refusal) : Option Refusal :=
  match o with
  | .next _ => none
  | .fault _ => none
  | .refused r => some r

/-- The outcome of one event at a state. -/
def did (s : State) (e : Event) : Host.Outcome State Fault Refusal :=
  step (queued s [e])

/-! ### WellFormed refuses each ill-formed operand (30_encoding.md R81, R83, R90) -/

theorem test_wf_refuses_off_256 :
    (Instr.wr32 256).wf = false ∧ (Instr.rd32 256).wf = false ∧ (Instr.wr10 256).wf = false ∧
    (Instr.rd10 256).wf = false ∧ (Instr.wrnib 256 true).wf = false ∧
    (Instr.rdnib 256 false).wf = false ∧ (Instr.setbit 256 0).wf = false ∧
    (Instr.getbit 256 0).wf = false ∧ (Instr.setmask 256 0xC0 6).wf = false := by decide

theorem test_wf_refuses_len_256 : (Instr.withName 256).wf = false := by decide

theorem test_wf_refuses_sh_8 :
    (Instr.setbit 61 8).wf = false ∧ (Instr.getbit 61 8).wf = false ∧
    (Instr.setmask 61 0xC0 8).wf = false := by decide

theorem test_wf_accepts_the_bounds :
    (Instr.setmask 255 0xFF 7).wf = true ∧ (Instr.withName 255).wf = true ∧
    (Instr.setbit 0 0).wf = true ∧ Instr.getType.wf = true := by decide

/-! ### Decoding: words written from R81 (OPC 7:0, OFF or LEN 15:8, MASK 23:16, SH 26:24, HI 27) -/

theorem test_decode_control :
    decode 0x00000001 = .ok .beginBuild ∧ decode 0x00000002 = .ok .sealRecord := by decide

theorem test_decode_codec :
    decode 0x00003C10 = .ok (.wr32 60) ∧ decode 0x00002A11 = .ok (.rd32 42) ∧
    decode 0x0000FF12 = .ok (.wr10 255) ∧ decode 0x00003A13 = .ok (.rd10 58) ∧
    decode 0x08003E14 = .ok (.wrnib 62 true) ∧ decode 0x00003E15 = .ok (.rdnib 62 false) ∧
    decode 0x03003D16 = .ok (.setbit 61 3) ∧ decode 0x07001417 = .ok (.getbit 20 7) ∧
    decode 0x06C03D18 = .ok (.setmask 61 0xC0 6) := by decide

theorem test_decode_steps :
    decode 0x00002A20 = .ok (.withName 42) ∧ decode 0x00000021 = .ok .withCoords ∧
    decode 0x00000022 = .ok .withGold ∧ decode 0x00000023 = .ok .withMana ∧
    decode 0x00000024 = .ok .withHealth ∧ decode 0x00000025 = .ok .withRespect ∧
    decode 0x00000026 = .ok .withStrength ∧ decode 0x00000027 = .ok .withExperience ∧
    decode 0x00000028 = .ok .withLevel ∧ decode 0x00000029 = .ok .withHouse ∧
    decode 0x0000002A = .ok .withGun ∧ decode 0x0000002B = .ok .withFamily ∧
    decode 0x0000002C = .ok .withType := by decide

theorem test_decode_accessors :
    decode 0x00000030 = .ok .getName ∧ decode 0x00000031 = .ok .getX ∧
    decode 0x00000032 = .ok .getY ∧ decode 0x00000033 = .ok .getZ ∧
    decode 0x00000034 = .ok .getGold ∧ decode 0x00000035 = .ok .getMana ∧
    decode 0x00000036 = .ok .getHealth ∧ decode 0x00000037 = .ok .getRespect ∧
    decode 0x00000038 = .ok .getStrength ∧ decode 0x00000039 = .ok .getExperience ∧
    decode 0x0000003A = .ok .getLevel ∧ decode 0x0000003B = .ok .getHouse ∧
    decode 0x0000003C = .ok .getGun ∧ decode 0x0000003D = .ok .getFamily ∧
    decode 0x0000003E = .ok .getType := by decide

/-- 95 section 2.8, the illegal words. -/
theorem test_decode_illegal :
    decode 0x00000000 = .error (.undefinedOpcode 0x00) ∧
    decode 0x00000003 = .error (.undefinedOpcode 0x03) ∧
    decode 0x0000003F = .error (.undefinedOpcode 0x3F) ∧
    decode 0x10000001 = .error .reservedNonzero ∧ decode 0x80000011 = .error .reservedNonzero ∧
    decode 0x00000101 = .error .unusedFieldNonzero ∧ decode 0x00010010 = .error .unusedFieldNonzero ∧
    decode 0x08003E10 = .error .unusedFieldNonzero := by decide

theorem test_encode_words :
    encode (.setmask 61 0xC0 6) = 0x06C03D18 ∧ encode (.wrnib 62 true) = 0x08003E14 ∧
    encode (.wr32 60) = 0x00003C10 ∧ encode .getType = 0x0000003E := by decide

theorem test_opcode_table_has_39_rows_apart :
    opcodeTable.length = 39 ∧ (opcodeTable.map (·.pattern)).Nodup ∧
    opcodeTable.all (fun r => r.pattern &&& ~~~r.mask == 0) = true := by decide

theorem test_decode_table_word :
    decodeTableWord 32 0x06C03D18 = some (.setmask 61 0xC0 6) ∧ decodeTableWord 8 0x02 = some .sealRecord ∧
    decodeTableWord 32 0 = none := by decide

/-- The first step from reset runs the placed command: SETMASK is illegal in IDLE, BEGIN is not. -/
theorem test_step_runs_the_placed_word_from_reset :
    after (step (State.reset.withFetchWord 32 0x00000001)) Block.statusWord = some 0x00000001 ∧
    after (step (State.reset.withFetchWord 32 0x06C03D18)) Block.statusWord = some 0x00000030 := by
  decide

/-! ### The codec commands (95 sections 2.1 to 2.5) -/

theorem test_wr32_big_endian :
    after (exec (.wr32 0) (inMode .building 0x12345678 [])) (·.buf) =
      some [(0, 0x12), (1, 0x34), (2, 0x56), (3, 0x78)] := by decide

theorem test_wr32_range_before_bounds :
    after (exec (.wr32 61) (inMode .building 2147483648 [(5, 1)])) Block.statusWord = some 0x00000110 ∧
    after (exec (.wr32 61) (inMode .building 7 [(5, 1)])) Block.statusWord = some 0x00000220 := by decide

theorem test_rd32_sign_extends :
    after (exec (.rd32 0) (inMode .building 0 [(0, 0x80)])) (·.res) = some 0xFFFFFFFF80000000 := by decide

theorem test_rd32_past_the_end_keeps_a_sealed_record :
    after (exec (.rd32 61) (inMode .sealed 0 [(5, 1)])) (fun b => (b.statusWord, b.buf)) =
      some (0x00000022, [(5, 1)]) := by decide

theorem test_wr10_keeps_the_other_bits :
    after (exec (.wr10 0) (inMode .building 0 [(1, 0xFF)])) (·.buf) = some [(1, 0xCF)] ∧
    after (exec (.wr10 0) (inMode .building 512 [])) (·.buf) = some [(1, 0x20)] := by decide

theorem test_wr10_negative_is_out_of_range :
    after (exec (.wr10 0) (inMode .building (-1) [])) Block.statusWord = some 0x00000110 := by decide

theorem test_rd10_ignores_the_other_bits :
    after (exec (.rd10 0) (inMode .building 0 [(0, 0x12), (1, 0xEF)])) (·.res) = some 0x212 := by decide

theorem test_rd10_63_is_invalid_layout :
    after (exec (.rd10 63) (inMode .building 0 [])) Block.statusWord = some 0x00000220 := by decide

theorem test_wrnib_each_half :
    after (exec (.wrnib 10 true) (inMode .building 15 [(10, 0x5A)])) (·.buf) = some [(10, 0xFA)] ∧
    after (exec (.wrnib 10 false) (inMode .building 0 [(10, 0x5A)])) (·.buf) = some [(10, 0x50)] := by
  decide

theorem test_wrnib_16_is_out_of_range :
    after (exec (.wrnib 10 true) (inMode .building 16 [(10, 0x5A)])) (fun b => (b.statusWord, b.buf)) =
      some (0x00000110, []) := by decide

theorem test_rdnib_each_half :
    after (exec (.rdnib 10 true) (inMode .building 0 [(10, 0x5A)])) (·.res) = some 5 ∧
    after (exec (.rdnib 10 false) (inMode .building 0 [(10, 0x5A)])) (·.res) = some 10 := by decide

theorem test_setbit_sets_and_is_idempotent :
    after (exec (.setbit 20 7) (inMode .building 0 [])) (·.buf) = some [(20, 0x80)] ∧
    after (exec (.setbit 20 7) (inMode .building 0 [(20, 0x80)])) (·.buf) = some [(20, 0x80)] := by decide

theorem test_setbit_64_is_invalid_layout :
    after (exec (.setbit 64 0) (inMode .building 0 [])) Block.statusWord = some 0x00000220 := by decide

theorem test_getbit_reads_one_bit :
    after (exec (.getbit 20 7) (inMode .building 0 [(20, 0x80)])) (·.res) = some 1 ∧
    after (exec (.getbit 20 6) (inMode .building 0 [(20, 0x80)])) (·.res) = some 0 := by decide

theorem test_setmask_writes_under_the_mask :
    after (exec (.setmask 61 0xC0 6) (inMode .building 1 [(61, 0x85)])) (·.buf) = some [(61, 0x45)] ∧
    after (exec (.setmask 61 0x0F 2) (inMode .building 3 [])) (·.buf) = some [(61, 0x0C)] := by decide

theorem test_setmask_bit_outside_the_mask_aborts :
    after (exec (.setmask 61 0x0F 2) (inMode .building 4 [])) Block.statusWord = some 0x00000110 ∧
    after (exec (.setmask 61 0xC0 6) (inMode .building 4 [])) Block.statusWord = some 0x00000110 := by decide

/-! ### The builder (95 sections 1 and 2.6) -/

theorem test_begin_from_sealed_zeroes :
    after (exec .beginBuild (inMode .sealed 0 [(5, 1)])) (fun b => (b.statusWord, b.buf)) =
      some (0x00000001, []) := by decide

theorem test_seal_accepts_mana_high_bits :
    after (exec .sealRecord (inMode .building 0 [(59, 0x30)])) Block.statusWord = some 0x00000002 := by decide

theorem test_seal_refuses_each_layout_error :
    after (exec .sealRecord (inMode .building 0 [(61, 0x08)])) Block.statusWord = some 0x00000220 ∧
    after (exec .sealRecord (inMode .building 0 [(59, 0x01)])) Block.statusWord = some 0x00000220 ∧
    after (exec .sealRecord (inMode .building 0 [(59, 0x80)])) Block.statusWord = some 0x00000220 ∧
    after (exec .sealRecord (inMode .building 0 [(61, 0xC0)])) Block.statusWord = some 0x00000220 := by
  decide

/-- A building state whose name slot is full and whose NSTAGE holds "Bob". -/
def named : State :=
  { inMode .building 0 [(0, 0x61), (1, 0x61), (2, 0x61), (3, 0x61), (41, 0x61), (42, 0x07)] with
    blk := { (inMode .building 0 [(0, 0x61), (1, 0x61), (2, 0x61), (3, 0x61), (41, 0x61), (42, 0x07)]).blk with
      nstage := [(0, 0x42), (1, 0x6F), (2, 0x62), (3, 0x7A)] } }

theorem test_with_name_pads_with_zero :
    after (exec (.withName 3) named) (·.buf) =
      some [(0, 0x42), (1, 0x6F), (2, 0x62), (42, 0x07)] := by decide

theorem test_with_name_43_aborts :
    after (exec (.withName 43) named) (fun b => (b.statusWord, b.buf)) = some (0x00000110, []) := by
  decide

/-- A building state with the three operand registers given. -/
def coordsAt (x y z : DWord) : State :=
  { inMode .building x [] with blk := { (inMode .building x []).blk with opb := y, opc := z } }

theorem test_with_coords :
    after (exec .withCoords (coordsAt (-1) 0 5)) (·.buf) =
      some [(42, 0xFF), (43, 0xFF), (44, 0xFF), (45, 0xFF), (53, 0x05)] := by decide

theorem test_with_coords_checks_z_before_any_write :
    after (exec .withCoords (coordsAt 1 2 2147483648)) (fun b => (b.statusWord, b.buf)) =
      some (0x00000110, []) := by decide

theorem test_with_gold :
    after (exec .withGold (inMode .building 2147483647 [])) (·.buf) =
      some [(54, 0x7F), (55, 0xFF), (56, 0xFF), (57, 0xFF)] ∧
    after (exec .withGold (inMode .building 2147483648 [])) Block.statusWord = some 0x00000110 := by decide

theorem test_with_mana :
    after (exec .withMana (inMode .building 1000 [])) (·.buf) = some [(58, 0xE8), (59, 0x30)] ∧
    after (exec .withMana (inMode .building 1024 [])) Block.statusWord = some 0x00000110 := by decide

theorem test_with_health_keeps_flags_and_type :
    after (exec .withHealth (inMode .building 1000 [(61, 0x45)])) (·.buf) =
      some [(60, 0xE8), (61, 0x75)] := by decide

theorem test_with_respect :
    after (exec .withRespect (inMode .building 1 [(62, 0xF3)])) (·.buf) = some [(62, 0x13)] := by decide

theorem test_with_strength :
    after (exec .withStrength (inMode .building 3 [(62, 0xF0)])) (·.buf) = some [(62, 0xF3)] := by decide

theorem test_with_experience :
    after (exec .withExperience (inMode .building 10 [(63, 0x0A)])) (·.buf) = some [(63, 0xAA)] := by decide

theorem test_with_level :
    after (exec .withLevel (inMode .building 16 [])) Block.statusWord = some 0x00000110 ∧
    after (exec .withLevel (inMode .building 10 [])) (·.buf) = some [(63, 0x0A)] := by decide

theorem test_with_house :
    after (exec .withHouse (inMode .building 7 [(61, 0x44)])) (·.buf) = some [(61, 0x45)] := by decide

theorem test_with_gun_twice :
    after (exec .withGun (inMode .building 0 [(61, 0x02)])) (·.buf) = some [(61, 0x02)] := by decide

theorem test_with_family :
    after (exec .withFamily (inMode .building 0 [(61, 0x40)])) (·.buf) = some [(61, 0x44)] := by decide

theorem test_with_type_rewrites_its_two_bits :
    after (exec .withType (inMode .building 2 [(61, 0x75)])) (·.buf) = some [(61, 0xB5)] ∧
    after (exec .withType (inMode .building 3 [])) Block.statusWord = some 0x00000110 := by decide

theorem test_step_in_idle_does_not_abort :
    after (exec .withGold (inMode .idle 5 [])) Block.statusWord = some 0x00000030 := by decide

theorem test_step_in_sealed_keeps_the_record :
    after (exec .withGold (inMode .sealed 5 [(5, 1)])) (fun b => (b.statusWord, b.buf)) =
      some (0x00000032, [(5, 1)]) := by decide

/-! ### The accessors (95 section 2.7 and V2) -/

/-- A sealed record written by hand from the layout R57: name "Bob", a zero, a stray byte, then the
fields. -/
def sealedRecord : State :=
  inMode .sealed 0 ([(0, 0x42), (1, 0x6F), (2, 0x62), (4, 0x7A), (42, 0x80)] ++
    [(46, 0x7F), (47, 0xFF), (48, 0xFF), (49, 0xFF), (53, 0x05), (54, 0x80)] ++
    [(58, 0xE8), (59, 0x30), (60, 0x01), (61, 0xA5), (62, 0xA9), (63, 0xC3)])

theorem test_get_name_stops_at_zero :
    after (exec .getName sealedRecord) (·.res) = some 3 ∧
    after (exec .getName (inMode .sealed 0 [])) (·.res) = some 0 := by decide

theorem test_get_coords :
    after (exec .getX sealedRecord) (·.res) = some 0xFFFFFFFF80000000 ∧
    after (exec .getY sealedRecord) (·.res) = some 0x7FFFFFFF ∧
    after (exec .getZ sealedRecord) (·.res) = some 5 := by decide

theorem test_get_gold : after (exec .getGold sealedRecord) (·.res) = some 0xFFFFFFFF80000000 := by decide

theorem test_get_mana_health :
    after (exec .getMana sealedRecord) (·.res) = some 1000 ∧
    after (exec .getHealth sealedRecord) (·.res) = some 513 := by decide

theorem test_get_nibbles :
    after (exec .getRespect sealedRecord) (·.res) = some 10 ∧
    after (exec .getStrength sealedRecord) (·.res) = some 9 ∧
    after (exec .getExperience sealedRecord) (·.res) = some 12 ∧
    after (exec .getLevel sealedRecord) (·.res) = some 3 := by decide

theorem test_get_flags :
    after (exec .getHouse sealedRecord) (·.res) = some 1 ∧
    after (exec .getGun sealedRecord) (·.res) = some 0 ∧
    after (exec .getFamily sealedRecord) (·.res) = some 1 := by decide

theorem test_get_type : after (exec .getType sealedRecord) (·.res) = some 2 := by decide

theorem test_accessor_in_building_aborts :
    after (exec .getX (inMode .building 0 [(5, 1)])) (fun b => (b.statusWord, b.buf)) =
      some (0x00000330, []) ∧
    after (exec .getX (inMode .idle 0 [])) Block.statusWord = some 0x00000030 := by decide

/-! ### The host bus (95 section 2.9) -/

theorem test_bus_reads :
    shown (did sealedRecord (.read 0x000 .word)) = some 0x00002A40 ∧
    shown (did sealedRecord (.read 0x004 .word)) = some 0x00000002 ∧
    shown (did sealedRecord (.read 0x008 .word)) = some 0 ∧
    shown (did sealedRecord (.read 0x030 .word)) = some 0 ∧
    shown (did sealedRecord (.read 0x1E8 .word)) = some 0xE8 ∧
    shown (did sealedRecord (.read 0x2A8 .word)) = some 0 := by decide

theorem test_bus_res_halves :
    shown (did { inMode .idle 0 [] with blk := { Block.reset with res := 0xFFFFFFFF80000000 } }
      (.read 0x028 .word)) = some 0x80000000 ∧
    shown (did { inMode .idle 0 [] with blk := { Block.reset with res := 0xFFFFFFFF80000000 } }
      (.read 0x02C .word)) = some 0xFFFFFFFF := by decide

theorem test_bus_writes :
    after (did (inMode .idle 0 []) (.write 0x200 .word 0x000001FF)) (·.nstage) = some [(0, 0xFF)] ∧
    after (did (inMode .idle 0 []) (.write 0x010 .word 0xFFFFFFFF)) (·.opa) = some 0xFFFFFFFF ∧
    after (did (inMode .idle 1 []) (.write 0x014 .word 0x80000000)) (·.opa) = some 0x8000000000000001 ∧
    after (did sealedRecord (.write 0x1E8 .word 0x5)) (·.buf) = some sealedRecord.blk.buf := by decide

theorem test_bus_refusals :
    refusal (did (inMode .idle 0 []) (.write 0x008 .byte 1)) = some (.accessWidth .byte) ∧
    refusal (did (inMode .idle 0 []) (.read 0x1000 .word)) = some (.addressOutOfRange 0x1000) ∧
    refusal (did (inMode .idle 0 []) (.read 0x005 .word)) = some (.misalignedAddress 0x005) ∧
    refusal (did (inMode .idle 0 []) (.read 0xFFC .word)) = none := by decide

theorem test_reset_event :
    after (did { sealedRecord with blk := { sealedRecord.blk with opa := 5, err := .outOfRange } } .reset)
      id = some Block.reset := by decide

/-! ### The assembly language (30_encoding.md R90, R91) -/

theorem test_assemble_pseudo :
    assemble "gold -2 ; the gold".toList =
      some [.write 0x010 .word 0xFFFFFFFE, .write 0x014 .word 0xFFFFFFFF, .write 0x008 .word 0x22] := by
  decide

theorem test_assemble_name :
    assemble "Name \"Bo\"\nSEAL".toList =
      some [.write 0x200 .word 0x42, .write 0x204 .word 0x6F, .write 0x008 .word 0x00000220,
        .write 0x008 .word 0x02] := by decide

theorem test_assemble_fields :
    assemble "setmask 61, 0xC0, 6\nwrnib 62, hi\nrd BUFWIN[58]\nwr OPA_HI, 7".toList =
      some [.write 0x008 .word 0x06C03D18, .write 0x008 .word 0x08003E14, .read 0x1E8 .word,
        .write 0x014 .word 7] := by decide

theorem test_assemble_rejects :
    assemble "setbit 61, 8".toList = none ∧ assemble "wr32 256".toList = none ∧
    assemble "setmask 61, 256, 0".toList = none ∧ assemble "nop".toList = none := by decide

/-! ### The build contract (V1, V4, V7, V8) -/

theorem test_build_byte_61 :
    build [.house, .family, .type 2] = .ok [(61, 0x85)] ∧ build [.type 2, .family, .house] = .ok [(61, 0x85)] := by
  decide

theorem test_build_fails_fast :
    build [.gold 7, .mana 1024] = .error .outOfRange ∧ build [.type 3] = .error .outOfRange ∧
    build [] = .ok [] := by decide

/-! ### Witnesses: for each obligation with hypotheses, states and operands that meet them -/

theorem witness_StepRunsTheDecodedCommand :
    decode 0x00000022 = .ok .withGold ∧ decode 0x00000000 = .error (.undefinedOpcode 0) := by decide

theorem witness_StepRunsThePlacedTableWord :
    decodeTableWord 32 0x07FFFF18 = some (.setmask 255 0xFF 7) := by decide

theorem witness_BusRefusesExactlyTheBadAccesses :
    (BadAccess (.write 0x008 .half 1) ∧ BadAccess (.read 0x1000 .word) ∧ BadAccess (.read 0xFFE .word) ∧
      BadAccess (.write 0x001 .word 0)) ∧
    ¬BadAccess (.read 0xFFC .word) ∧ ¬BadAccess (.write 0x000 .word 0) ∧ ¬BadAccess .reset := by
  simp [BadAccess]

theorem witness_DecodeOfEncodeGivesTheCommand :
    (Instr.setmask 255 0xFF 7).WellFormed ∧ (Instr.withName 0).WellFormed := by decide

theorem witness_EachCommandHasOneSpelling : decode 0x0800FF14 = .ok (.wrnib 255 true) := by decide

theorem witness_WordDecodesAsItsTableRow :
    (∃ r ∈ opcodeTable, r.Matches 0x07FFFF18) ∧ ∀ r ∈ opcodeTable, ¬r.Matches 0x08003E10 := by decide

theorem witness_IllegalModeRaisesIllegalCommand :
    ¬LegalIn .sealRecord (inMode .idle 0 []).blk.mode ∧ ¬LegalIn .getType (inMode .building 0 []).blk.mode ∧
    ¬LegalIn .withGold (inMode .sealed 0 []).blk.mode := by simp [LegalIn, inMode]

theorem witness_EveryErrorIsErrorEntry :
    ∃ t, step (queued (inMode .building 0 [(5, 1)]) [.write 0x008 .word 0]) = .next t ∧ t.blk.err ≠ .ok :=
  ⟨_, rfl, by decide⟩

/-- The modes in which a command may be illegal. -/
theorem witness_IllegalOutside :
    (inMode .idle 0 []).blk.mode ≠ .building ∧ (inMode .sealed 0 []).blk.mode ≠ .building ∧
    (inMode .idle 0 []).blk.mode ≠ .sealed ∧ (inMode .building 0 []).blk.mode ≠ .sealed := by decide

theorem witness_Wr32WritesBigEndian :
    (0x0000FF10 : Word) &&& 0xFFFF00FF = 0x00000010 ∧
    ([(2147483648 : DWord), -2147483649].all fun v => decide ((inMode .building v []).blk.mode = .building ∧
      OutsideInt32 (inMode .building v []).blk.opa.toInt)) = true ∧
    ([(2147483647 : DWord), -2147483648].all fun v => decide ((inMode .building v []).blk.mode = .building ∧
      ¬OutsideInt32 (inMode .building v []).blk.opa.toInt)) = true ∧ 60 < 61 ∧ 60 ≤ 60 := by
  decide

theorem witness_Rd32ReadsBigEndian : (0x0000FF11 : Word) &&& 0xFFFF00FF = 0x00000011 ∧ 60 < 61 ∧ 60 ≤ 60 := by
  decide

theorem witness_Wr10WritesSplitValue :
    (0x0000FF12 : Word) &&& 0xFFFF00FF = 0x00000012 ∧
    ([(-1 : DWord), 1024].all fun v => decide ((inMode .building v []).blk.mode = .building ∧
      ((inMode .building v []).blk.opa.toInt < 0 ∨ 1023 < (inMode .building v []).blk.opa.toInt))) = true ∧
    ([(0 : DWord), 1023].all fun v => decide ((inMode .building v []).blk.mode = .building ∧
      0 ≤ (inMode .building v []).blk.opa.toInt ∧ (inMode .building v []).blk.opa.toInt ≤ 1023)) = true ∧
    62 < 63 ∧ 62 ≤ 62 := by
  decide

theorem witness_Rd10ReadsSplitValue : (0x0000FF13 : Word) &&& 0xFFFF00FF = 0x00000013 ∧ 62 < 63 ∧ 62 ≤ 62 := by
  decide

theorem witness_WrnibWritesOneNibble :
    (0x0800FF14 : Word) &&& 0xF7FF00FF = 0x00000014 ∧
    ([(-1 : DWord), 16].all fun v => decide ((inMode .building v []).blk.mode = .building ∧
      ((inMode .building v []).blk.opa.toInt < 0 ∨ 15 < (inMode .building v []).blk.opa.toInt))) = true ∧
    ([(0 : DWord), 15].all fun v => decide ((inMode .building v []).blk.mode = .building ∧
      0 ≤ (inMode .building v []).blk.opa.toInt ∧ (inMode .building v []).blk.opa.toInt ≤ 15)) = true ∧
    63 < 64 ∧ 63 ≤ 63 := by
  decide

theorem witness_RdnibReadsOneNibble : (0x0800FF15 : Word) &&& 0xF7FF00FF = 0x00000015 ∧ 63 < 64 ∧ 63 ≤ 63 := by
  decide

theorem witness_SetbitSetsOneBit :
    (0x0700FF16 : Word) &&& 0xF8FF00FF = 0x00000016 ∧ 7 < 8 ∧ (inMode .building 0 []).blk.mode = .building ∧
    63 < 64 ∧ 63 ≤ 63 := by decide

theorem witness_GetbitReadsOneBit :
    (0x0700FF17 : Word) &&& 0xF8FF00FF = 0x00000017 ∧ 7 < 8 ∧ 63 < 64 ∧ 63 ≤ 63 := by decide

theorem witness_SetmaskWritesUnderMask :
    (0x07FFFF18 : Word) &&& 0xF80000FF = 0x00000018 ∧ 7 < 8 ∧
    ((inMode .building (-1) []).blk.mode = .building ∧ (inMode .building (-1) []).blk.opa.toInt < 0) ∧
    ((inMode .building 4 []).blk.mode = .building ∧ 255 < (inMode .building 4 []).blk.opa.toInt * 2 ^ 6) ∧
    (((inMode .building 4 []).blk.opa.toInt * 2 ^ 2).toNat.testBit 4 = true ∧
      (0x0F : Byte).getLsbD 4 = false) ∧
    ((inMode .building 3 []).blk.mode = .building ∧ 0 ≤ (inMode .building 3 []).blk.opa.toInt ∧
      (inMode .building 3 []).blk.opa.toInt * 2 ^ 6 ≤ 255) ∧ 63 < 64 ∧ 63 ≤ 63 := by decide

/-- The last premise of the SETMASK clause: the value 3 << 6 lies under the mask 0xC0. -/
theorem witness_SetmaskWritesUnderMask_fits :
    ∀ j, ((inMode .building 3 []).blk.opa.toInt * 2 ^ 6).toNat.testBit j = true →
      (0xC0 : Byte).getLsbD j = true :=
  fun _ h => h

theorem witness_BeginStartsAFreshBuild :
    (0x00000101 : Word).extractLsb' 0 8 = 0x01 ∧ (0x00000101 : Word) ≠ 0x00000001 := by decide

theorem witness_SealChecksTheLayout :
    (inMode .building 0 [(61, 0x08)]).blk.mode = .building ∧ ¬MayBeSealed [(61, 0x08)] ∧
    ¬MayBeSealed [(59, 0x01)] ∧ ¬MayBeSealed [(59, 0x80)] ∧ ¬MayBeSealed [(61, 0xC0)] ∧
    MayBeSealed [(59, 0x30), (61, 0xB7)] := by simp only [MayBeSealed]; decide

theorem witness_WithNameWritesThePaddedName :
    (0x0000FF20 : Word) &&& 0xFFFF00FF = 0x00000020 ∧ named.blk.mode = .building ∧ 42 < 43 ∧ 42 ≤ 42 ∧
    0 ≤ 42 ∧ 41 < 42 := by decide

theorem witness_WithCoordsWritesThreeValues :
    (coordsAt 0 0 0).blk.mode = .building ∧
    OutsideInt32 (coordsAt 2147483648 0 0).blk.opa.toInt ∧ OutsideInt32 (coordsAt 0 2147483648 0).blk.opb.toInt ∧
    OutsideInt32 (coordsAt 0 0 (-2147483649)).blk.opc.toInt ∧
    ¬OutsideInt32 (coordsAt 2147483647 0 (-2147483648)).blk.opa.toInt ∧
    ¬OutsideInt32 (coordsAt 2147483647 0 (-2147483648)).blk.opb.toInt ∧
    ¬OutsideInt32 (coordsAt 2147483647 0 (-2147483648)).blk.opc.toInt := by
  decide

theorem witness_WithGoldWritesGold :
    ([(2147483648 : DWord), -2147483649].all fun v => decide ((inMode .building v []).blk.mode = .building ∧
      OutsideInt32 (inMode .building v []).blk.opa.toInt)) = true ∧
    ([(2147483647 : DWord), -2147483648].all fun v => decide ((inMode .building v []).blk.mode = .building ∧
      ¬OutsideInt32 (inMode .building v []).blk.opa.toInt)) = true := by
  decide

theorem witness_WithManaAndHealthWriteTenBits :
    ([(-1 : DWord), 1024].all fun v => decide ((inMode .building v []).blk.mode = .building ∧
      ((inMode .building v []).blk.opa.toInt < 0 ∨ 1023 < (inMode .building v []).blk.opa.toInt))) = true ∧
    ([(0 : DWord), 1023].all fun v => decide ((inMode .building v []).blk.mode = .building ∧
      0 ≤ (inMode .building v []).blk.opa.toInt ∧ (inMode .building v []).blk.opa.toInt ≤ 1023)) = true := by
  decide

theorem witness_NibbleStepsWriteOneNibble :
    ([(-1 : DWord), 16].all fun v => decide ((inMode .building v []).blk.mode = .building ∧
      ((inMode .building v []).blk.opa.toInt < 0 ∨ 15 < (inMode .building v []).blk.opa.toInt))) = true ∧
    ([(0 : DWord), 15].all fun v => decide ((inMode .building v []).blk.mode = .building ∧
      0 ≤ (inMode .building v []).blk.opa.toInt ∧ (inMode .building v []).blk.opa.toInt ≤ 15)) = true := by
  decide

theorem witness_FlagStepsSetOneBit : (inMode .building 0 [(61, 0x44)]).blk.mode = .building := by decide

theorem witness_WithTypeWritesTwoBits :
    ([(-1 : DWord), 3].all fun v => decide ((inMode .building v []).blk.mode = .building ∧
      (inMode .building v []).blk.opa.toInt ≠ 0 ∧ (inMode .building v []).blk.opa.toInt ≠ 1 ∧
      (inMode .building v []).blk.opa.toInt ≠ 2)) = true ∧
    ([(0 : DWord), 1, 2].all fun v => decide ((inMode .building v []).blk.mode = .building ∧
      ((inMode .building v []).blk.opa.toInt = 0 ∨ (inMode .building v []).blk.opa.toInt = 1 ∨
        (inMode .building v []).blk.opa.toInt = 2))) = true := by decide

/-- The premises of the statements about the accessors: a sealed state that meets the invariant. -/
theorem witness_Accessors : sealedRecord.blk.mode = .sealed ∧ sealedRecord.Inv := by decide

theorem witness_Windows : 0 < 64 ∧ 63 < 64 ∧ 0 < 42 ∧ 41 < 42 ∧ 0 ≠ 41 := by decide

theorem witness_OtherAccessesAreIgnoredOrReadZero :
    (ReadOnlyOrReserved 0x000 ∧ ReadOnlyOrReserved 0x004 ∧ ReadOnlyOrReserved 0x00C ∧
      ReadOnlyOrReserved 0x028 ∧ ReadOnlyOrReserved 0x02C ∧ ReadOnlyOrReserved 0x030 ∧
      ReadOnlyOrReserved 0x1FC ∧ ReadOnlyOrReserved 0x2A8 ∧ ReadOnlyOrReserved 0xFFC) ∧
    (WriteOnlyOrReserved 0x008 ∧ WriteOnlyOrReserved 0x00C ∧ WriteOnlyOrReserved 0x030 ∧
      WriteOnlyOrReserved 0x0FC ∧ WriteOnlyOrReserved 0x2A8 ∧ WriteOnlyOrReserved 0xFFC) ∧
    0xFFC % 4 = 0 := by simp [ReadOnlyOrReserved, WriteOnlyOrReserved]

theorem witness_StepKeepsInv :
    (queued sealedRecord [.write 0x008 .word 1]).Inv ∧
    ∃ t, step (queued sealedRecord [.write 0x008 .word 1]) = .next t :=
  ⟨by decide, _, rfl⟩

theorem witness_InvGivesZeroBufAndSealConditions :
    State.reset.Inv ∧ State.reset.blk.mode = .idle ∧ sealedRecord.Inv ∧ sealedRecord.blk.mode = .sealed ∧
    64 ≤ 64 ∧ 42 ≤ 42 := by decide

/-- The WITH.GOLD command is illegal in SEALED, so the step ends in an error. -/
theorem witness_SealedRecordIsImmutable :
    (queued sealedRecord [.write 0x008 .word 0x22]).blk.mode = .sealed ∧
    (∃ t, step (queued sealedRecord [.write 0x008 .word 0x22]) = .next t ∧ t.blk.err ≠ .ok) ∧
    (∃ w, NextCommand (queued sealedRecord [.write 0x008 .word 0x22]) w) ∧
    ¬NextReset (queued sealedRecord [.write 0x008 .word 0x22]) ∧
    ¬NextCommand (queued sealedRecord [.write 0x008 .word 0x22]) 0x00000001 := by
  refine ⟨by decide, ⟨_, rfl, by decide⟩, ⟨0x22, [], rfl⟩, ?_, ?_⟩ <;> simp [NextReset, NextCommand, queued]

theorem witness_OnlyBeginSealErrorAndResetWriteMode :
    ∃ t, step (queued sealedRecord [.write 0x008 .word 1]) = .next t ∧ t.blk.mode ≠ sealedRecord.blk.mode :=
  ⟨_, rfl, by decide⟩

/-- One state for each clause: reset next, BEGIN next, an error in a build, and none of these. -/
theorem witness_AbortCodeKeepsTheAbortingError :
    (∃ t, step (queued sealedRecord [.reset]) = .next t) ∧ NextReset (queued sealedRecord [.reset]) ∧
    (∃ t, step (queued sealedRecord [.write 0x008 .word 1]) = .next t) ∧
    NextCommand (queued sealedRecord [.write 0x008 .word 1]) 0x00000001 ∧
    (∃ t, step (queued (inMode .building 0 []) [.write 0x008 .word 0]) = .next t ∧ t.blk.err ≠ .ok) ∧
    (∃ w, NextCommand (queued (inMode .building 0 []) [.write 0x008 .word 0]) w) ∧
    (queued (inMode .building 0 []) [.write 0x008 .word 0]).blk.mode = .building ∧
    (∃ t, step (queued sealedRecord [.write 0x008 .word 0x22]) = .next t) ∧
    ¬NextReset (queued sealedRecord [.write 0x008 .word 0x22]) ∧
    ¬NextCommand (queued sealedRecord [.write 0x008 .word 0x22]) 0x00000001 ∧
    (queued sealedRecord [.write 0x008 .word 0x22]).blk.mode ≠ .building := by
  refine ⟨⟨_, rfl⟩, ⟨[], rfl⟩, ⟨_, rfl⟩, ⟨[], rfl⟩, ⟨_, rfl, by decide⟩, ⟨0, [], rfl⟩, rfl, ⟨_, rfl⟩, ?_, ?_,
    by decide⟩ <;> simp [NextReset, NextCommand, queued]

theorem witness_OnlyASuccessfulReadWritesRes :
    ∃ t, step (queued sealedRecord [.write 0x008 .word 0x35]) = .next t ∧ t.blk.res ≠ sealedRecord.blk.res :=
  ⟨_, rfl, by decide⟩

theorem witness_NoCommandWritesItsOperands : ∃ t, exec .withCoords (coordsAt 1 2 3) = .next t := ⟨_, rfl⟩

theorem witness_OtherHostActionsKeepRecordAndStatus :
    (∃ t, step (queued sealedRecord [.write 0x010 .word 5]) = .next t) ∧
    ¬NextReset (queued sealedRecord [.write 0x010 .word 5]) ∧
    ∀ w, ¬NextCommand (queued sealedRecord [.write 0x010 .word 5]) w := by
  refine ⟨⟨_, rfl⟩, ?_, fun w => ?_⟩ <;> simp [NextReset, NextCommand, queued]

theorem witness_AdmittedRunsNeverStop :
    ∀ e ∈ (queued State.reset [.write 0x008 .word 1, .reset, .read 0xFFC .word]).pending, ¬BadAccess e := by
  simp [queued, BadAccess]

theorem witness_CodecRoundTripAndOverwriteLaws :
    (60 + 4 ≤ 64 ∧ ¬OutsideInt32 (-2147483648)) ∧ (62 + 2 ≤ 64 ∧ (0 : Int) ≤ 1023 ∧ (1023 : Int) ≤ 1023) ∧
    (63 + 1 ≤ 64 ∧ (0 : Int) ≤ 15 ∧ (15 : Int) ≤ 15) ∧ 7 < 8 ∧
    (∃ b', cdcSetmask [(61, 5)] 61 0xC0 6 3 = .ok b') ∧ Memory.wf 64 [(61, 5)] = true ∧
    (∃ b', cdcWr32 [(61, 5)] 60 7 = .ok b') ∧ (∃ b', cdcWr10 [(61, 5)] 60 1023 = .ok b') ∧
    (∃ b', cdcWrnib [(61, 5)] 61 15 true = .ok b') ∧ (∃ b', cdcSetbit [(61, 5)] 61 7 = .ok b') :=
  ⟨⟨by decide, by simp [OutsideInt32]⟩, by decide, by decide, by decide, ⟨_, rfl⟩, by decide, ⟨_, rfl⟩, ⟨_, rfl⟩,
    ⟨_, rfl⟩, ⟨_, rfl⟩⟩

theorem witness_StepsOfDisjointFieldsCommute :
    Memory.wf 64 [(61, 0x35)] = true ∧ (ConfigStep.health 513).field ≠ (ConfigStep.type 2).field ∧
    (ConfigStep.health 1024).field ≠ (ConfigStep.type 3).field ∧
    ((ConfigStep.health 1024).apply [(61, 0x35)]).bind (ConfigStep.type 3).apply = .error .outOfRange := by
  decide

theorem witness_LastStepOfAFieldWins :
    Memory.wf 64 [(61, 0x35)] = true ∧ (ConfigStep.type 2).field = (ConfigStep.type 1).field ∧
    (ConfigStep.type 2).apply [(61, 0x35)] = .ok [(61, 0xB5)] ∧ ¬Owns (ConfigStep.type 2).field 61 5 ∧
    ¬Owns (ConfigStep.type 2).field 60 6 := by simp only [ConfigStep.field, Owns]; decide

theorem witness_StepOnlyBuildsNeverFailSeal :
    build [.mana 1024] = .error .outOfRange ∧ applySteps [.type 2] Memory.zeroed = .ok [(61, 0x80)] ∧
    build [.type 2] = .ok [(61, 0x80)] := by decide

/-- The hypothesis is met where `build` gives a record and where it gives an error. -/
theorem witness_HostSequenceCarriesOutBuild :
    ([ConfigStep.name [0x42, 0x6F], .mana 1000].all ConfigStep.expressible = true ∧
      build [.name [0x42, 0x6F], .mana 1000] =
        .ok [(0, 0x42), (1, 0x6F), (58, 0xE8), (59, 0x30)]) ∧
    ([ConfigStep.name [0x42, 0x6F], .coords (-1) 0 5, .mana 1024].all ConfigStep.expressible = true ∧
      build [.name [0x42, 0x6F], .coords (-1) 0 5, .mana 1024] = .error .outOfRange) := by decide

theorem witness_AccessorsReadBackTheBuild :
    build [.mana 1000] = .ok [(58, 0xE8), (59, 0x30)] ∧
    (inMode .sealed 0 [(58, 0xE8), (59, 0x30)]).blk.mode = .sealed ∧
    (inMode .sealed 0 [(58, 0xE8), (59, 0x30)]).blk.buf = [(58, 0xE8), (59, 0x30)] := by decide

theorem witness_ValuePseudoLoadsThenRuns :
    (AsmLine.withValue .withGold (-9223372036854775808)).expand =
      some [.write 0x010 .word 0, .write 0x014 .word 0x80000000, .write 0x008 .word 0x22] := by decide

theorem witness_CommandLineRunsItsCommand :
    (Instr.setbit 255 7).WellFormed ∧ ¬(Instr.setbit 61 8).WellFormed := by decide

end Sys2Proof.Tests
end

section
/-! SUPPORT. A word that decodes is the one word of its command (30_encoding.md R82). -/

namespace Sys2Proof

/-- The decoder accepts no fields but those the command has: OPC fixes the command, its operands are
the fields it uses, and every other field is 0. -/
theorem fields_of_decodeFields {f : CmdFields} {i : Instr} (h : decodeFields f = .ok i) :
    i.fields = f := by
  obtain ⟨opc, off, mask, sh, hi, rsv⟩ := f
  unfold decodeFields at h
  split at h
  case h_40 => exact nomatch h
  all_goals
    rename_i hopc
    obtain ⟨hrsv, hu, rfl⟩ := accept_eq_ok.mp h
    replace hopc := congrArg (BitVec.ofNat 8) hopc
    rw [BitVec.ofNat_toNat, BitVec.setWidth_eq] at hopc
    simp_all [unusedZero, usesNothing, usesOff, usesOffHi, usesOffSh, usesOffMaskSh, Instr.fields]

theorem encode_of_decode {w : Word} {i : Instr} (h : decode w = .ok i) : encode i = w := by
  rw [encode, fields_of_decodeFields h, CmdFields.toWord_ofWord]

end Sys2Proof
end

section
/-! SUPPORT. What a step of the machine can do, said once: a successful command has one of five
effects, a CMD write succeeds or ends in error entry, and each event has one effect (10_state.md R20
to R32, 20_memory.md R52 and R53, 30_encoding.md R84 and R87, 60_exceptions.md R206). -/

namespace Sys2Proof.Machine

open Sys2Proof.Claims

/-! ### Bodies that keep BUF canonical -/

theorem stepName_wf {len : Nat} {bytes : Nat → Byte} {b b' : Memory} (hb : b.wf 64 = true)
    (h : stepName len bytes b = .ok b') : b'.wf 64 = true := by
  unfold stepName at h
  split at h
  · exact nomatch h
  · obtain rfl := Except.ok.inj h
    exact Memory.wf_fill _ (by decide) hb

theorem stepCoords_wf {x y z : Int} {b b' : Memory} (hb : b.wf 64 = true)
    (h : stepCoords x y z b = .ok b') : b'.wf 64 = true := by
  unfold stepCoords at h
  split at h
  · exact nomatch h
  · cases hx : cdcWr32 b Layout.xOff x with
    | error e => simp [hx, Except.bind] at h
    | ok b₁ =>
      cases hy : cdcWr32 b₁ Layout.yOff y with
      | error e => simp [hx, hy, Except.bind] at h
      | ok b₂ =>
        simp only [hx, hy, Except.bind] at h
        exact cdcWr32_wf (cdcWr32_wf (cdcWr32_wf hb hx) hy) h

theorem stepType_wf {v : Int} {b b' : Memory} (hb : b.wf 64 = true)
    (h : stepType v b = .ok b') : b'.wf 64 = true := by
  unfold stepType at h
  split at h
  · exact nomatch h
  · exact cdcSetmask_wf hb h

/-! ### What a successful command does -/

/-- The command succeeded, with everything it changed: BEGIN starts a build (R141), SEAL ends it
(R156), a write changes BUF in a build and keeps it canonical, and a value-producing command puts its
value in RES (R84). -/
inductive Succeeds (i : Instr) (s t : State) : Prop where
  | began (hi : i = .beginBuild)
      (ht : t = { s with blk := { s.blk with
        buf := Memory.zeroed, mode := .building, err := .ok, abortCode := .ok } })
  | sealedRecord (hi : i = .sealRecord) (hm : s.blk.mode = .building) (hs : sealOk s.blk.buf = true)
      (ht : t = { s with blk := { s.blk with mode := .sealed, err := .ok } })
  | wrote (m : Memory) (hi : ¬ProducesValue i) (hb : i ≠ .beginBuild) (hm : s.blk.mode = .building)
      (hw : s.blk.buf.wf 64 = true → m.wf 64 = true)
      (ht : t = { s with blk := { s.blk with buf := m, err := .ok } })
  | produced (v : DWord) (hi : ProducesValue i) (ht : t = withResult s v)

theorem Succeeds.err_eq_ok {i : Instr} {s t : State} (h : Succeeds i s t) : t.blk.err = .ok := by
  cases h with
  | began _ ht => rw [ht]
  | sealedRecord _ _ _ ht => rw [ht]
  | wrote _ _ _ _ _ ht => rw [ht]
  | produced _ _ ht => rw [ht]; rfl

/-- BEGIN alone touches ABORT_CODE when it succeeds (R29). -/
theorem Succeeds.abortCode_eq {i : Instr} {s t : State} (h : Succeeds i s t) :
    t.blk.abortCode = if i = .beginBuild then .ok else s.blk.abortCode := by
  cases h with
  | began hi ht => rw [ht, if_pos hi]
  | sealedRecord hi _ _ ht => rw [ht, if_neg (by rw [hi]; decide)]
  | wrote _ _ hb _ _ ht => rw [ht, if_neg hb]
  | produced v hi ht => rw [ht, if_neg (fun hb => by rwa [hb] at hi)]; rfl

section Command

variable {s t : State} {legal : Mode → Bool}

/-- A command ends in error entry, or its body's writes take effect and ERR is OK (R87). -/
theorem State.command_eq_next {body : Block → Except CmdError Block}
    (h : s.command legal body = .next t) :
    (∃ e, t = s.fail e) ∨
      ∃ b', legal s.blk.mode = true ∧ body s.blk = .ok b' ∧ t = { s with blk := b'.commit } := by
  rw [State.command_eq] at h
  obtain rfl := Host.Outcome.next.inj h
  obtain ⟨-, hc⟩ | ⟨e, -, -, hc⟩ | ⟨b', hl, hb, hc⟩ := s.blk.command_cases legal body
  · exact .inl ⟨_, by rw [hc, State.fail]⟩
  · exact .inl ⟨e, by rw [hc, State.fail]⟩
  · exact .inr ⟨b', hl, hb, by rw [hc]⟩

theorem command_putBuf {i : Instr} {r : Block → Except CmdError Memory}
    (h : s.command buildingOnly (fun b => b.putBuf (r b)) = .next t)
    (hi : ¬ProducesValue i) (hb : i ≠ .beginBuild)
    (hw : ∀ m, s.blk.buf.wf 64 = true → r s.blk = .ok m → m.wf 64 = true) :
    (∃ e, t = s.fail e) ∨ Succeeds i s t := by
  obtain he | ⟨b', hl, hb', rfl⟩ := State.command_eq_next h
  · exact .inl he
  · obtain ⟨m, hm, rfl⟩ := (Block.putBuf_eq_ok _).mp hb'
    exact .inr (.wrote m hi hb ((buildingOnly_iff _).mp hl) (hw m · hm) rfl)

theorem command_putRes {i : Instr} {r : Block → Except CmdError Int}
    (h : s.command legal (fun b => b.putRes (r b)) = .next t) (hi : ProducesValue i) :
    (∃ e, t = s.fail e) ∨ Succeeds i s t := by
  obtain he | ⟨b', -, hb', rfl⟩ := State.command_eq_next h
  · exact .inl he
  · obtain ⟨v, -, rfl⟩ := (Block.putRes_eq_ok _).mp hb'
    exact .inr (.produced _ hi rfl)

end Command

theorem exec_beginBuild (s : State) :
    exec .beginBuild s = .next { s with blk := { s.blk with
      buf := Memory.zeroed, mode := .building, err := .ok, abortCode := .ok } } := by
  have h := Block.command_ok (body := fun b => .ok { b with
    buf := Memory.zeroed, mode := .building, abortCode := .ok }) (anyMode_eq_true s.blk.mode) rfl
  simp only [exec, execBeginBuild, State.command_eq, h]
  rfl

theorem exec_sealRecord_next {s t : State} (h : exec .sealRecord s = .next t) :
    (∃ e, t = s.fail e) ∨ Succeeds .sealRecord s t := by
  obtain he | ⟨b', hl, hb', rfl⟩ := State.command_eq_next h
  · exact .inl he
  · split at hb'
    · obtain rfl := Except.ok.inj hb'
      exact .inr (.sealedRecord rfl ((buildingOnly_iff _).mp hl) ‹_› rfl)
    · exact nomatch hb'

/-- Every command ends in error entry or has one of the effects of a command that succeeds. -/
theorem exec_eq_next {i : Instr} {s t : State} (h : exec i s = .next t) :
    (∃ e, t = s.fail e) ∨ Succeeds i s t := by
  cases i with
  | beginBuild =>
    rw [exec_beginBuild] at h
    exact .inr (.began rfl (Host.Outcome.next.inj h).symm)
  | sealRecord => exact exec_sealRecord_next h
  | wr32 | withGold =>
    exact command_putBuf h id nofun fun _ => cdcWr32_wf
  | wr10 | withMana | withHealth =>
    exact command_putBuf h id nofun fun _ => cdcWr10_wf
  | wrnib | withRespect | withStrength | withExperience | withLevel =>
    exact command_putBuf h id nofun fun _ => cdcWrnib_wf
  | setbit | withHouse | withGun | withFamily =>
    exact command_putBuf h id nofun fun _ => cdcSetbit_wf
  | setmask => exact command_putBuf h id nofun fun _ => cdcSetmask_wf
  | withName => exact command_putBuf h id nofun fun _ => stepName_wf
  | withCoords => exact command_putBuf h id nofun fun _ => stepCoords_wf
  | withType => exact command_putBuf h id nofun fun _ => stepType_wf
  | rd32 | rd10 | rdnib | getbit | getName | getX | getY | getZ | getGold | getMana | getHealth
  | getRespect | getStrength | getExperience | getLevel | getHouse | getGun | getFamily | getType =>
    exact command_putRes h trivial

/-- A CMD write ends in error entry, or the word decodes and its command succeeds (R87). -/
theorem cmdWrite_eq_next {w : Word} {s t : State} (h : cmdWrite w s = .next t) :
    (∃ e, t = s.fail e) ∨ ∃ i, decode w = .ok i ∧ Succeeds i s t := by
  cases hd : decode w with
  | error r =>
    rw [cmdWrite_error hd] at h
    exact .inl ⟨_, (Host.Outcome.next.inj h).symm⟩
  | ok i =>
    rw [cmdWrite_ok hd] at h
    exact (exec_eq_next h).imp_right fun hs => ⟨i, rfl, hs⟩

/-! ### ABORT_CODE after a CMD write (10_state.md R29) -/

section AbortCode

variable {w : Word} {s t : State}

theorem cmdWrite_begin_abortCode (h : cmdWrite 0x00000001 s = .next t) : t.blk.abortCode = .ok := by
  have hd : decode 0x00000001 = .ok .beginBuild := by decide
  rw [cmdWrite_ok hd, exec_beginBuild] at h
  rw [← Host.Outcome.next.inj h]

/-- An error in a build is the aborting error. -/
theorem cmdWrite_abortCode_of_error (h : cmdWrite w s = .next t) (hm : s.blk.mode = .building)
    (he : t.blk.err ≠ .ok) : t.blk.abortCode = t.blk.err := by
  obtain ⟨e, rfl⟩ | ⟨i, -, hs⟩ := cmdWrite_eq_next h
  · rw [State.fail_blk, Block.fail_building _ _ hm]
  · exact absurd hs.err_eq_ok he

/-- A CMD write other than BEGIN that aborts no build leaves ABORT_CODE. -/
theorem cmdWrite_abortCode_kept (h : cmdWrite w s = .next t) (hw : w ≠ 0x00000001)
    (ha : ¬(s.blk.mode = .building ∧ t.blk.err ≠ .ok)) : t.blk.abortCode = s.blk.abortCode := by
  obtain ⟨e, rfl⟩ | ⟨i, hd, hs⟩ := cmdWrite_eq_next h
  · have hm : s.blk.mode ≠ .building := fun hm => ha ⟨hm, by simp⟩
    rw [State.fail_blk, Block.fail_not_building _ _ hm]
  · have hi : i ≠ .beginBuild := by
      rintro rfl
      exact hw (encode_of_decode hd).symm
    rw [hs.abortCode_eq, if_neg hi]

end AbortCode

/-! ### What one step does -/

/-- CMD has one address (R51). -/
theorem HostReg.ofAddr_eq_cmd_iff (a : Nat) : HostReg.ofAddr a = .cmd ↔ a = 0x008 := by
  simp only [HostReg.ofAddr, ite_eq_iff, reduceCtorEq, and_false, false_or, or_false, and_true]
  omega

/-- An admitted read lists the register's word and changes nothing else (R52). -/
theorem step_queued_read {addr : Nat} (h : accessRefusal addr .word = none) (s : State)
    (rest : List Event) :
    step (queued s (.read addr .word :: rest)) =
      .next (afterRead (queued s rest) (s.blk.readReg (HostReg.ofAddr addr))) := by
  rw [step_cons rfl, perform_read h]
  rfl

/-- An admitted write to another address than that of CMD is taken by its register (R52). -/
theorem step_queued_write {addr : Nat} (h : accessRefusal addr .word = none) (hc : addr ≠ 0x008)
    (s : State) (d : Word) (rest : List Event) :
    step (queued s (.write addr .word d :: rest)) =
      .next { queued s rest with blk := s.blk.writeReg d (HostReg.ofAddr addr) } := by
  rw [step_cons rfl, perform_write h (mt (HostReg.ofAddr_eq_cmd_iff addr).mp hc)]
  rfl

/-- The effect of one step that has a next state, by the event that comes next. -/
inductive StepEffect (s t : State) : Prop where
  | nothing (hp : s.pending = []) (ht : t = s)
  | reset (rest : List Event) (hp : s.pending = .reset :: rest)
      (ht : t = { queued s rest with blk := Block.reset })
  | read (addr : Nat) (rest : List Event) (hp : s.pending = .read addr .word :: rest)
      (ht : t = afterRead (queued s rest) (s.blk.readReg (HostReg.ofAddr addr)))
  | write (addr : Nat) (d : Word) (rest : List Event) (hp : s.pending = .write addr .word d :: rest)
      (ha : addr ≠ 0x008)
      (ht : t = { queued s rest with blk := s.blk.writeReg d (HostReg.ofAddr addr) })
  | command (w : Word) (rest : List Event) (hp : s.pending = .write 0x008 .word w :: rest)
      (hc : cmdWrite w (queued s rest) = .next t)

theorem stepEffect_of_step {s t : State} (h : step s = .next t) : StepEffect s t := by
  cases hp : s.pending with
  | nil =>
    rw [step_nil hp] at h
    exact .nothing hp (Host.Outcome.next.inj h).symm
  | cons e rest =>
    rw [step_cons hp] at h
    cases e with
    | reset =>
      rw [perform_reset] at h
      exact .reset rest hp (Host.Outcome.next.inj h).symm
    | read addr size =>
      cases hr : accessRefusal addr size with
      | some r => simp [perform, hr] at h
      | none =>
        obtain ⟨rfl, -⟩ := accessRefusal_eq_none.mp hr
        rw [perform_read hr] at h
        exact .read addr rest hp (Host.Outcome.next.inj h).symm
    | write addr size d =>
      cases hr : accessRefusal addr size with
      | some r => simp [perform, hr] at h
      | none =>
        obtain ⟨rfl, -⟩ := accessRefusal_eq_none.mp hr
        by_cases ha : addr = 0x008
        · subst ha
          exact .command d rest hp h
        · rw [perform_write hr (mt (HostReg.ofAddr_eq_cmd_iff addr).mp ha)] at h
          exact .write addr d rest hp ha (Host.Outcome.next.inj h).symm

@[simp] theorem Block.writeReg_abortCode (b : Block) (d : Word) (r : HostReg) :
    (b.writeReg d r).abortCode = b.abortCode := by
  cases r <;> rfl

end Sys2Proof.Machine
end

section
/-! SUPPORT. The fields of the STATUS word (10_state.md R30). -/

namespace Sys2Proof.Machine

theorem Block.statusWord_mode (b : Block) : b.statusWord.extractLsb' 0 2 = b.mode.bits := by
  apply BitVec.eq_of_getLsbD_eq
  intro i hi
  interval_cases i <;> simp [Block.statusWord]

theorem Block.statusWord_err (b : Block) : b.statusWord.extractLsb' 4 2 = b.err.bits := by
  apply BitVec.eq_of_getLsbD_eq
  intro i hi
  interval_cases i <;> simp [Block.statusWord]

theorem Block.statusWord_abortCode (b : Block) :
    b.statusWord.extractLsb' 8 2 = b.abortCode.bits := by
  apply BitVec.eq_of_getLsbD_eq
  intro i hi
  interval_cases i <;> simp [Block.statusWord]

theorem Block.statusWord_reserved (b : Block) :
    b.statusWord.extractLsb' 2 2 = 0 ∧ b.statusWord.extractLsb' 6 2 = 0 ∧
      b.statusWord.extractLsb' 10 22 = 0 := by
  refine ⟨?_, ?_, ?_⟩
  all_goals
    apply BitVec.eq_of_getLsbD_eq
    intro i hi
    interval_cases i <;> simp [Block.statusWord]

end Sys2Proof.Machine
end

section
/-! The statements of 10_state.md about STATUS, INFO and ABORT_CODE. -/

namespace Sys2Proof.Machine

open Sys2Proof.Claims

/-- Settles O48: each effect of a step names what it does to ABORT_CODE, and of the CMD writes only
BEGIN and an error in a build touch it. -/
theorem abortCodeKeepsTheAbortingError : Obligations.AbortCodeKeepsTheAbortingError := by
  intro s t h
  cases stepEffect_of_step h with
  | nothing hp ht => simp [NextReset, NextCommand, hp, ht]
  | reset rest hp ht => simp [NextReset, NextCommand, hp, ht, Block.reset]
  | read addr rest hp ht => simp [NextReset, NextCommand, hp, ht, afterRead, queued]
  | write addr d rest hp ha ht => simp [NextReset, NextCommand, hp, ht, ha, queued]
  | command w rest hp hc =>
    have hnext : ∀ v, NextCommand s v ↔ w = v := by simp [NextCommand, hp]
    refine ⟨?_, fun hb => ?_, fun _ hm he => cmdWrite_abortCode_of_error hc hm he,
      fun _ hb ha => ?_⟩
    · simp [NextReset, hp]
    · obtain rfl := (hnext _).mp hb
      exact cmdWrite_begin_abortCode hc
    · exact cmdWrite_abortCode_kept (s := queued s rest) hc (mt (hnext _).mpr hb)
        fun ⟨hm, he⟩ => ha ⟨⟨w, (hnext w).mpr rfl⟩, hm, he⟩

/-- Settles O37: INFO stands at address 0x000 and its constant does not depend on the block. -/
theorem infoReadsItsConstant : Obligations.InfoReadsItsConstant := by
  intro s rest
  have hinfo : infoWord = 0x00002A40 := by decide
  rw [← hinfo]
  exact step_queued_read (by decide) s rest

/-- Settles O38, field by field of the STATUS word. -/
theorem statusReadsModeErrAndAbortCode : Obligations.StatusReadsModeErrAndAbortCode := by
  intro s rest
  obtain ⟨h32, h76, h3110⟩ := s.blk.statusWord_reserved
  refine ⟨⟨s.blk.statusWord, step_queued_read (by decide) s rest, ?_, h32, ?_, h76, ?_, h3110⟩,
    fun d => step_queued_write (by decide) (by decide) s d rest⟩
  · rw [Block.statusWord_mode]
    cases s.blk.mode <;> rfl
  · rw [Block.statusWord_err]
    cases s.blk.err <;> rfl
  · rw [Block.statusWord_abortCode]
    cases s.blk.abortCode <;> rfl

end Sys2Proof.Machine
end

section
/-! SUPPORT. Which events of the outside world have a next state, and the registers that ignore a write
or read as 0 (20_memory.md R51 to R53, 70_reset_and_hazards.md R238). -/

namespace Sys2Proof.Machine

open Sys2Proof.Claims

/-! ### Every admitted event has a next state -/

/-- No command can fail to complete (R238): each is a command cycle, which has a next state. -/
theorem exec_has_next (i : Instr) (s : State) : ∃ t, exec i s = .next t := by
  cases i <;> exact ⟨_, rfl⟩

theorem cmdWrite_has_next (w : Word) (s : State) : ∃ t, cmdWrite w s = .next t := by
  cases hd : decode w with
  | ok i => rw [cmdWrite_ok hd]; exact exec_has_next i s
  | error r => exact ⟨_, cmdWrite_error hd s⟩

theorem perform_of_admitted {e : Event} (h : e.admitted = true) (s : State) :
    ∃ t, perform e s = .next t := by
  cases e with
  | reset => exact ⟨_, perform_reset s⟩
  | read addr size =>
    have hr := Option.isNone_iff_eq_none.mp h
    obtain ⟨rfl, -⟩ := accessRefusal_eq_none.mp hr
    exact ⟨_, perform_read hr⟩
  | write addr size d =>
    have hr := Option.isNone_iff_eq_none.mp h
    obtain ⟨rfl, -⟩ := accessRefusal_eq_none.mp hr
    by_cases ha : addr = 0x008
    · subst ha
      exact cmdWrite_has_next d s
    · exact ⟨_, perform_write hr (mt (HostReg.ofAddr_eq_cmd_iff addr).mp ha)⟩

theorem perform_of_not_admitted {e : Event} (h : e.admitted = false) (s : State) :
    ∃ r, perform e s = .refused r := by
  cases e with
  | reset => exact nomatch h
  | read addr size | write addr size _ =>
    obtain ⟨r, hr⟩ := Option.isSome_iff_exists.mp (Option.isNone_eq_false_iff.mp h)
    exact ⟨r, by simp only [perform, hr]⟩

/-- The last admitted address is 0xFFC: those up to 0xFFF are no multiples of 4 (R53). -/
theorem accessRefusal_isNone_eq_false_iff (addr : Nat) (size : AccessSize) :
    (accessRefusal addr size).isNone = false ↔ size ≠ .word ∨ 0xFFC < addr ∨ addr % 4 ≠ 0 := by
  rw [← Bool.not_eq_true, Option.isNone_iff_eq_none, accessRefusal_eq_none, not_and_or]
  exact or_congr_right (by omega)

theorem admitted_eq_false_iff_badAccess (e : Event) : e.admitted = false ↔ BadAccess e := by
  cases e with
  | reset => exact iff_of_false nofun id
  | read addr size | write addr size _ => exact accessRefusal_isNone_eq_false_iff addr size

/-! ### The registers at the addresses of R51 -/

theorem HostReg.ofAddr_eq_reserved {a : Nat} (h : (0x030 ≤ a ∧ a < 0x100) ∨ 0x2A8 ≤ a) :
    HostReg.ofAddr a = .reserved := by
  simp (disch := omega) only [HostReg.ofAddr, if_neg]

theorem HostReg.ofAddr_eq_bufwin {a : Nat} (h : 0x100 ≤ a ∧ a < 0x200) :
    HostReg.ofAddr a = .bufwin ((a - 0x100) / 4) := by
  simp (disch := omega) only [HostReg.ofAddr, if_neg, if_pos]

theorem HostReg.ofAddr_bufwin {k : Nat} (hk : k < 64) : HostReg.ofAddr (0x100 + 4 * k) = .bufwin k :=
  HostReg.ofAddr_addr (.bufwin k) (fun _ h => HostReg.bufwin.inj h ▸ hk) nofun

theorem HostReg.ofAddr_nstage {k : Nat} (hk : k < 42) : HostReg.ofAddr (0x200 + 4 * k) = .nstage k :=
  HostReg.ofAddr_addr (.nstage k) nofun fun _ h => HostReg.nstage.inj h ▸ hk

/-- A read-only or reserved register ignores a write (R52). -/
theorem Block.writeReg_of_readOnlyOrReserved {a : Nat} (h : ReadOnlyOrReserved a) (b : Block)
    (d : Word) : b.writeReg d (HostReg.ofAddr a) = b := by
  obtain ⟨-, -, rfl | rfl | rfl | rfl | rfl | ⟨hlo, hhi⟩ | hhi⟩ := h
  iterate 5 · rfl
  · by_cases hw : a < 0x100
    · rw [HostReg.ofAddr_eq_reserved (.inl ⟨hlo, hw⟩), Block.writeReg]
    · rw [HostReg.ofAddr_eq_bufwin (by omega), Block.writeReg]
  · rw [HostReg.ofAddr_eq_reserved (.inr hhi), Block.writeReg]

/-- CMD and the reserved addresses read as 0 (R32, R52). -/
theorem Block.readReg_of_writeOnlyOrReserved {a : Nat} (h : WriteOnlyOrReserved a) (b : Block) :
    b.readReg (HostReg.ofAddr a) = 0 := by
  obtain ⟨-, -, rfl | rfl | ⟨hlo, hhi⟩ | hhi⟩ := h
  · rfl
  · rfl
  · rw [HostReg.ofAddr_eq_reserved (.inl ⟨hlo, by omega⟩), Block.readReg]
  · rw [HostReg.ofAddr_eq_reserved (.inr hhi), Block.readReg]

theorem ne_cmd_of_readOnlyOrReserved {a : Nat} (h : ReadOnlyOrReserved a) : a ≠ 0x008 := by
  obtain ⟨-, -, h⟩ := h
  omega

theorem accessRefusal_word_of_aligned {a : Nat} (h4 : a % 4 = 0) (hle : a ≤ 0xFFC) :
    accessRefusal a .word = none :=
  accessRefusal_eq_none.mpr ⟨rfl, by omega, h4⟩

/-! ### Halves and zero extension as concatenations (R54 to R56) -/

theorem byte_setWidth_eq_append (x : Byte) : x.setWidth 32 = (0 : BitVec 24) ++ x :=
  BitVec.setWidth_eq_append (by decide)

theorem setLo_eq_append (v : DWord) (d : Word) : setLo v d = v.extractLsb' 32 32 ++ d := by
  apply BitVec.eq_of_getLsbD_eq
  intro i hi
  rw [BitVec.getLsbD_append]
  interval_cases i <;> simp [setLo]

theorem setHi_eq_append (v : DWord) (d : Word) : setHi v d = d ++ v.extractLsb' 0 32 := by
  apply BitVec.eq_of_getLsbD_eq
  intro i hi
  rw [BitVec.getLsbD_append]
  interval_cases i <;> simp [setHi]

end Sys2Proof.Machine
end

section
/-! The statements of 20_memory.md about the host bus and its register map. -/

namespace Sys2Proof.Machine

open Sys2Proof.Claims

/-- Settles O4: the bad accesses are those the bus does not admit, and every other event has a next
state since every command completes. -/
theorem busRefusesExactlyTheBadAccesses : Obligations.BusRefusesExactlyTheBadAccesses := by
  intro s e rest
  rw [step_cons rfl, ← admitted_eq_false_iff_badAccess, Bool.not_eq_false]
  exact ⟨fun h => perform_of_not_admitted h _, fun h => perform_of_admitted h _⟩

/-- Settles O41: the window's addresses are those of NSTAGE[k], a write there is a write of one byte of
NSTAGE, and BEGIN writes BUF, MODE, ERR and ABORT_CODE alone. -/
theorem nstageWindowReadsAndWrites : Obligations.NstageWindowReadsAndWrites := by
  refine ⟨fun s rest k hk => ?_, fun s => ⟨_, exec_beginBuild s, rfl⟩⟩
  have ha : accessRefusal (0x200 + 4 * k) .word = none :=
    accessRefusal_word_of_aligned (by omega) (by omega)
  have hreg := HostReg.ofAddr_nstage hk
  refine ⟨?_, fun d => ⟨_, step_queued_write ha (by omega) s d rest, ?_⟩⟩
  · rw [step_queued_read ha, hreg, Block.readReg, byte_setWidth_eq_append]
  · rw [hreg]
    exact ⟨rfl, Memory.read_write_same _ _ _, fun j hj => Memory.read_write_other _ _ hj⟩

/-- Settles O42: what the register at each of these addresses answers, and that a read changes the
listing alone. -/
theorem otherAccessesAreIgnoredOrReadZero : Obligations.OtherAccessesAreIgnoredOrReadZero := by
  intro s rest a
  refine ⟨fun h d => ?_, fun h => ?_, fun h4 hle =>
    ⟨_, step_queued_read (accessRefusal_word_of_aligned h4 hle) s rest⟩⟩
  · obtain ⟨h4, hle, -⟩ := id h
    rw [step_queued_write (accessRefusal_word_of_aligned h4 hle) (ne_cmd_of_readOnlyOrReserved h),
      Block.writeReg_of_readOnlyOrReserved h]
    rfl
  · obtain ⟨h4, hle, -⟩ := id h
    rw [step_queued_read (accessRefusal_word_of_aligned h4 hle),
      Block.readReg_of_writeOnlyOrReserved h]

/-- Settles O39: once a written half is read as `setLo` or `setHi`, each clause is the read or the
write rule of the bus at one address. -/
theorem registerHalvesReadAndWrite : Obligations.RegisterHalvesReadAndWrite := by
  intro s rest
  simp only [← setLo_eq_append, ← setHi_eq_append]
  refine ⟨?reads, fun d => ?writes⟩
  case reads => and_intros <;> exact step_queued_read (by decide) s rest
  case writes => and_intros <;> exact step_queued_write (by decide) (by decide) s d rest

/-- Settles O40: the window's addresses are those of BUFWIN[k], which is read-only. -/
theorem bufwinReadsBuf : Obligations.BufwinReadsBuf := by
  intro s rest k hk
  have ha : accessRefusal (0x100 + 4 * k) .word = none :=
    accessRefusal_word_of_aligned (by omega) (by omega)
  have hreg := HostReg.ofAddr_bufwin hk
  refine ⟨?_, fun d => ?_⟩
  · rw [step_queued_read ha, hreg, Block.readReg, byte_setWidth_eq_append]
  · rw [step_queued_write ha (by omega), hreg]
    rfl

end Sys2Proof.Machine
end

section
/-! SUPPORT. The decoder against opcode_table.json: the words under a row's mask, and the row of each
opcode that the decoder knows (30_encoding.md R82 to R85). -/

namespace Sys2Proof

open Sys2Proof.Claims

/-! ### The words that match under the mask of an opcode's fields -/

theorem CmdFields.ofWord_injective : Function.Injective CmdFields.ofWord :=
  Function.LeftInverse.injective CmdFields.toWord_ofWord

theorem CmdFields.ofWord_and (v w : Word) :
    CmdFields.ofWord (v &&& w) = {
      opc := (CmdFields.ofWord v).opc &&& (CmdFields.ofWord w).opc
      off := (CmdFields.ofWord v).off &&& (CmdFields.ofWord w).off
      mask := (CmdFields.ofWord v).mask &&& (CmdFields.ofWord w).mask
      sh := (CmdFields.ofWord v).sh &&& (CmdFields.ofWord w).sh
      hi := (CmdFields.ofWord v).hi && (CmdFields.ofWord w).hi
      rsv := (CmdFields.ofWord v).rsv &&& (CmdFields.ofWord w).rsv } := by
  simp [CmdFields.ofWord, BitVec.extractLsb'_and]

theorem CmdFields.ofWord_opcode (opc : Byte) :
    CmdFields.ofWord (opc.setWidth 32) = { opc := opc } := by
  have h : ({ opc := opc } : CmdFields).toWord = opc.setWidth 32 := by simp [CmdFields.toWord]
  rw [← h, CmdFields.ofWord_toWord]

/-- The mask of a field: nothing of a field that the opcode uses, all of one that it does not. -/
def fieldMask (n : Nat) (used : Bool) : BitVec n := if used then 0 else BitVec.allOnes n

theorem and_fieldMask_eq_zero {n : Nat} (x : BitVec n) (used : Bool) :
    x &&& fieldMask n used = 0 ↔ used = true ∨ x = 0 := by
  cases used <;> simp [fieldMask]

theorem and_not_eq_false (x used : Bool) : (x && !used) = false ↔ used = true ∨ (!x) = true := by
  cases used <;> simp

/-- The mask of a row whose opcode uses these fields: all of OPC, of RSV and of the fields that it does
not use (R82, R85 clause 2). -/
def UsedFields.wordMask (u : UsedFields) : Word :=
  CmdFields.toWord {
    opc := BitVec.allOnes 8
    off := fieldMask 8 u.off
    mask := fieldMask 8 u.mask
    sh := fieldMask 3 u.sh
    hi := !u.hi
    rsv := BitVec.allOnes 4 }

/-- Under its opcode's mask a word is the bare opcode exactly when RSV and the unused fields are 0. -/
theorem and_wordMask_eq_iff (u : UsedFields) (w : Word) :
    w &&& u.wordMask = (CmdFields.ofWord w).opc.setWidth 32 ↔
      (CmdFields.ofWord w).rsv = 0 ∧ unusedZero u (CmdFields.ofWord w) = true := by
  rw [← CmdFields.ofWord_injective.eq_iff, CmdFields.ofWord_and, CmdFields.ofWord_opcode,
    UsedFields.wordMask, CmdFields.ofWord_toWord]
  simp only [CmdFields.mk.injEq, and_fieldMask_eq_zero, and_not_eq_false, BitVec.and_allOnes,
    unusedZero, Bool.and_eq_true, Bool.or_eq_true, beq_iff_eq, and_assoc, true_and]
  exact ⟨fun ⟨hoff, hmask, hsh, hhi, hrsv⟩ => ⟨hrsv, hoff, hmask, hsh, hhi⟩,
    fun ⟨hrsv, hoff, hmask, hsh, hhi⟩ => ⟨hoff, hmask, hsh, hhi, hrsv⟩⟩

/-! ### The row of an opcode -/

/-- What the decoder makes of a word. Either its opcode is that of a row: the row's mask is that of the
fields which the opcode uses, and the command's operands are fields of the word. Or no row has its
opcode. -/
inductive OpcodeCase (w : Word) : Prop where
  | defined (u : UsedFields) (i : Instr) (hd : decode w = accept u (CmdFields.ofWord w) i)
      (hrow : ⟨i.mnemonic, u.wordMask, (CmdFields.ofWord w).opc.setWidth 32⟩ ∈ opcodeTable)
      (hops : OperandsFrom w i)
  | undefined (e : Reject) (hd : decode w = .error e)
      (hrows : ∀ r ∈ opcodeTable, r.pattern ≠ (CmdFields.ofWord w).opc.setWidth 32)

/-- The opcodes of the table's rows, in its order. -/
theorem opcodeTable_opcodes : opcodeTable.map (·.pattern.toNat) =
    [0x01, 0x02] ++ List.range' 0x10 9 ++ List.range' 0x20 13 ++ List.range' 0x30 15 := by
  decide

theorem opcodeCase (w : Word) : OpcodeCase w := by
  have hdec : decode w = decodeFields (CmdFields.ofWord w) := rfl
  unfold decodeFields at hdec
  split at hdec
  case h_40 =>
    refine .undefined _ hdec fun r hr hopc => ?_
    have hmem := List.mem_map_of_mem (f := (·.pattern.toNat)) hr
    rw [hopc, BitVec.toNat_setWidth_of_le (by decide), opcodeTable_opcodes] at hmem
    simp only [List.mem_append, List.mem_cons, List.not_mem_nil, List.mem_range'_1, or_false,
      imp_false] at *
    omega
  all_goals
    rename_i hopc
    replace hopc := congrArg (BitVec.ofNat 8) hopc
    rw [BitVec.ofNat_toNat, BitVec.setWidth_eq] at hopc
    refine .defined _ _ hdec ?_ ?_
    · simp only [hopc, Instr.mnemonic]
      decide
    · simp [OperandsFrom, CmdFields.ofWord]

/-- A row looks at every bit of OPC and its pattern is a bare opcode. -/
theorem opcodeTable_opc :
    ∀ r ∈ opcodeTable, r.mask.extractLsb' 0 8 = BitVec.allOnes 8 ∧
      r.pattern = (r.pattern.extractLsb' 0 8).setWidth 32 := by
  decide

theorem OpcodeRow.Matches.pattern_eq {r : OpcodeRow} {w : Word} (h : r.Matches w)
    (hr : r ∈ opcodeTable) : r.pattern = (CmdFields.ofWord w).opc.setWidth 32 := by
  obtain ⟨hm, hp⟩ := opcodeTable_opc r hr
  rw [hp, ← h, BitVec.extractLsb'_and, hm, BitVec.and_allOnes]
  rfl

theorem opcodeTable_pattern_nodup : (opcodeTable.map (·.pattern)).Nodup := by decide

/-! ### A decoded command -/

theorem wellFormed_of_operandsFrom {w : Word} {i : Instr} (h : OperandsFrom w i) : i.WellFormed := by
  have hoff := (w.extractLsb' 8 8).isLt
  have hsh := (w.extractLsb' 24 3).isLt
  cases i with
  | wr32 | rd32 | wr10 | rd10 | withName =>
    obtain rfl := h
    exact decide_eq_true hoff
  | wrnib | rdnib =>
    obtain ⟨rfl, -⟩ := h
    exact decide_eq_true hoff
  | setbit | getbit =>
    obtain ⟨rfl, rfl⟩ := h
    exact Bool.and_eq_true_iff.mpr ⟨decide_eq_true hoff, decide_eq_true hsh⟩
  | setmask =>
    obtain ⟨rfl, -, rfl⟩ := h
    exact Bool.and_eq_true_iff.mpr ⟨decide_eq_true hoff, decide_eq_true hsh⟩
  | _ => rfl

theorem operandsFrom_of_decode {w : Word} {i : Instr} (h : decode w = .ok i) : OperandsFrom w i := by
  cases opcodeCase w with
  | defined u j hd _ hops =>
    obtain ⟨-, -, rfl⟩ := accept_eq_ok.mp (hd.symm.trans h)
    exact hops
  | undefined e hd _ => exact nomatch hd.symm.trans h

/-- No two rows share an opcode, so the row that a word matches is that of its opcode, and under that
row's mask the decoder has nothing to reject. -/
theorem decode_of_matches {r : OpcodeRow} {w : Word} (hr : r ∈ opcodeTable) (h : r.Matches w) :
    ∃ i, decode w = .ok i ∧ i.mnemonic = r.mnemonic := by
  have hopc := h.pattern_eq hr
  cases opcodeCase w with
  | defined u i hd hrow _ =>
    obtain rfl := List.inj_on_of_nodup_map opcodeTable_pattern_nodup hr hrow hopc
    obtain ⟨hrsv, hu⟩ := (and_wordMask_eq_iff u w).mp h
    exact ⟨i, hd.trans (accept_eq_ok.mpr ⟨hrsv, hu, rfl⟩), rfl⟩
  | undefined e _ hrows => exact absurd hopc (hrows r hr)

/-- A word that decodes matches a row: that of its command. -/
theorem matches_of_decode {w : Word} {i : Instr} (h : decode w = .ok i) :
    ∃ r ∈ opcodeTable, r.Matches w := by
  cases opcodeCase w with
  | defined u j hd hrow _ =>
    obtain ⟨hrsv, hu, -⟩ := accept_eq_ok.mp (hd.symm.trans h)
    exact ⟨_, hrow, (and_wordMask_eq_iff u w).mpr ⟨hrsv, hu⟩⟩
  | undefined e hd _ => exact nomatch hd.symm.trans h

theorem decode_of_matches_no_row {w : Word} (h : ∀ r ∈ opcodeTable, ¬r.Matches w) :
    ∃ e, decode w = .error e := by
  cases hd : decode w with
  | error e => exact ⟨e, rfl⟩
  | ok i =>
    obtain ⟨r, hr, hm⟩ := matches_of_decode hd
    exact absurd hm (h r hr)

end Sys2Proof
end

section
/-! SUPPORT. Error entry as the statements have it (60_exceptions.md R206), and the commands that take
it for their mode or their word (30_encoding.md R85, R86). -/

namespace Sys2Proof.Machine

open Sys2Proof.Claims

theorem afterError_fail (s : State) (e : CmdError) : AfterError e s (s.fail e) := by
  refine ⟨rfl, rfl, by simp, by simp, by simp, by simp, by simp, by simp, fun hm => ?_, fun hm => ?_⟩
  · rw [State.fail_blk, Block.fail_building _ _ hm]
    exact ⟨Memory.read_zeroed, rfl, rfl⟩
  · rw [State.fail_blk, Block.fail_not_building _ _ hm]
    exact ⟨rfl, rfl, rfl⟩

/-- An illegal word in CMD ends in error entry (R85, R203). -/
theorem step_queued_illegalWord {w : Word} {r : Reject} (h : decode w = .error r) (s : State)
    (rest : List Event) :
    ∃ t, step (queued s (.write 0x008 .word w :: rest)) = .next t ∧
      AfterError .illegalCommand (queued s rest) t :=
  ⟨_, by rw [step_cons rfl]; exact cmdWrite_error h _, afterError_fail _ _⟩

section IllegalMode

variable {i : Instr} {s : State} {body : Block → Except CmdError Block}

/-- A command cycle in a mode that does not admit it ends in error entry before its body (R86). -/
theorem failsWith_of_illegal {legal : Mode → Bool} (hi : exec i s = s.command legal body)
    (hl : ¬legal s.blk.mode = true) : FailsWith i s .illegalCommand := by
  refine ⟨s.fail .illegalCommand, ?_, afterError_fail s .illegalCommand⟩
  rw [hi, State.command_eq, Block.command_illegal (Bool.not_eq_true _ ▸ hl), State.fail]

theorem failsWith_of_not_building (hi : exec i s = s.command buildingOnly body)
    (hm : s.blk.mode ≠ .building) : FailsWith i s .illegalCommand :=
  failsWith_of_illegal hi (mt (buildingOnly_iff _).mp hm)

theorem failsWith_of_not_sealed (hi : exec i s = s.command sealedOnly body)
    (hm : s.blk.mode ≠ .sealed) : FailsWith i s .illegalCommand :=
  failsWith_of_illegal hi (mt (sealedOnly_iff _).mp hm)

end IllegalMode

end Sys2Proof.Machine
end

section
/-! The statements of 30_encoding.md about the decoder and the modes of a command. -/

namespace Sys2Proof.Machine

open Sys2Proof.Claims

/-- Settles O6: the operands of a decoded command are fields of the word, so they fit; its encoding puts
them back, with every other field 0. -/
theorem eachCommandHasOneSpelling : Obligations.EachCommandHasOneSpelling := fun _ _ h =>
  ⟨wellFormed_of_operandsFrom (operandsFrom_of_decode h), encode_of_decode h⟩

/-- Settles O7: rows have different opcodes, and under a row's mask a word of that opcode is the row's
pattern exactly when the decoder accepts it. -/
theorem wordDecodesAsItsTableRow : Obligations.WordDecodesAsItsTableRow := by
  refine fun w => ⟨fun r hr hm => ?_, fun hno => ?_⟩
  · obtain ⟨i, hd, hname⟩ := decode_of_matches hr hm
    exact ⟨i, hd, hname, operandsFrom_of_decode hd⟩
  · obtain ⟨e, he⟩ := decode_of_matches_no_row hno
    exact ⟨⟨e, he⟩, step_queued_illegalWord he⟩

/-- Settles O9, by the modes column of R84: every mode, BUILDING only or SEALED only. -/
theorem illegalModeRaisesIllegalCommand : Obligations.IllegalModeRaisesIllegalCommand := by
  intro i s h
  cases i with
  | beginBuild | rd32 | rd10 | rdnib | getbit => exact absurd trivial h
  | getName | getX | getY | getZ | getGold | getMana | getHealth | getRespect | getStrength
  | getExperience | getLevel | getHouse | getGun | getFamily | getType =>
    exact failsWith_of_not_sealed rfl h
  | _ => exact failsWith_of_not_building rfl h

end Sys2Proof.Machine
end

section
/-! SUPPORT. The words of the raw codec commands: under the mask of its opcode's fields a word is that
opcode, so it decodes to the opcode's command (30_encoding.md R81 to R85). -/

namespace Sys2Proof

/-- A word that is a bare opcode under the mask of that opcode's fields decodes to the opcode's command,
with the operands that its fields hold. -/
theorem decode_of_and_wordMask {u : UsedFields} {opc : Byte} {w : Word} (cmd : CmdFields → Instr)
    (hdec : ∀ f : CmdFields, f.opc = opc → decodeFields f = accept u f (cmd f))
    (h : w &&& u.wordMask = opc.setWidth 32) : decode w = .ok (cmd (CmdFields.ofWord w)) := by
  have hopc : (CmdFields.ofWord w).opc = opc := by
    simpa only [CmdFields.ofWord_and, CmdFields.ofWord_opcode, UsedFields.wordMask,
      CmdFields.ofWord_toWord, BitVec.and_allOnes] using
      congrArg (fun x => (CmdFields.ofWord x).opc) h
  obtain ⟨hrsv, hu⟩ := (and_wordMask_eq_iff u w).mp (by rw [hopc, h])
  exact (hdec _ hopc).trans (accept_eq_ok.mpr ⟨hrsv, hu, rfl⟩)

section CodecWords

variable {w : Word}

theorem decode_wr32 (h : w &&& 0xFFFF00FF = 0x00000010) :
    decode w = .ok (.wr32 (w.extractLsb' 8 8).toNat) :=
  decode_of_and_wordMask (u := usesOff) (opc := 0x10) (fun f => .wr32 f.off.toNat)
    (fun f hf => by simp [decodeFields, hf]) h

theorem decode_rd32 (h : w &&& 0xFFFF00FF = 0x00000011) :
    decode w = .ok (.rd32 (w.extractLsb' 8 8).toNat) :=
  decode_of_and_wordMask (u := usesOff) (opc := 0x11) (fun f => .rd32 f.off.toNat)
    (fun f hf => by simp [decodeFields, hf]) h

theorem decode_wr10 (h : w &&& 0xFFFF00FF = 0x00000012) :
    decode w = .ok (.wr10 (w.extractLsb' 8 8).toNat) :=
  decode_of_and_wordMask (u := usesOff) (opc := 0x12) (fun f => .wr10 f.off.toNat)
    (fun f hf => by simp [decodeFields, hf]) h

theorem decode_rd10 (h : w &&& 0xFFFF00FF = 0x00000013) :
    decode w = .ok (.rd10 (w.extractLsb' 8 8).toNat) :=
  decode_of_and_wordMask (u := usesOff) (opc := 0x13) (fun f => .rd10 f.off.toNat)
    (fun f hf => by simp [decodeFields, hf]) h

theorem decode_wrnib (h : w &&& 0xF7FF00FF = 0x00000014) :
    decode w = .ok (.wrnib (w.extractLsb' 8 8).toNat (w.getLsbD 27)) :=
  decode_of_and_wordMask (u := usesOffHi) (opc := 0x14) (fun f => .wrnib f.off.toNat f.hi)
    (fun f hf => by simp [decodeFields, hf]) h

theorem decode_rdnib (h : w &&& 0xF7FF00FF = 0x00000015) :
    decode w = .ok (.rdnib (w.extractLsb' 8 8).toNat (w.getLsbD 27)) :=
  decode_of_and_wordMask (u := usesOffHi) (opc := 0x15) (fun f => .rdnib f.off.toNat f.hi)
    (fun f hf => by simp [decodeFields, hf]) h

theorem decode_setbit (h : w &&& 0xF8FF00FF = 0x00000016) :
    decode w = .ok (.setbit (w.extractLsb' 8 8).toNat (w.extractLsb' 24 3).toNat) :=
  decode_of_and_wordMask (u := usesOffSh) (opc := 0x16) (fun f => .setbit f.off.toNat f.sh.toNat)
    (fun f hf => by simp [decodeFields, hf]) h

theorem decode_getbit (h : w &&& 0xF8FF00FF = 0x00000017) :
    decode w = .ok (.getbit (w.extractLsb' 8 8).toNat (w.extractLsb' 24 3).toNat) :=
  decode_of_and_wordMask (u := usesOffSh) (opc := 0x17) (fun f => .getbit f.off.toNat f.sh.toNat)
    (fun f hf => by simp [decodeFields, hf]) h

theorem decode_setmask (h : w &&& 0xF80000FF = 0x00000018) :
    decode w =
      .ok (.setmask (w.extractLsb' 8 8).toNat (w.extractLsb' 16 8) (w.extractLsb' 24 3).toNat) :=
  decode_of_and_wordMask (u := usesOffMaskSh) (opc := 0x18)
    (fun f => .setmask f.off.toNat f.mask f.sh.toNat) (fun f hf => by simp [decodeFields, hf]) h

end CodecWords

end Sys2Proof
end

section
/-! SUPPORT. The bytes that the codec primitives form and take apart, as bit ranges (20_memory.md R59,
R60, 40_codec.md R102 to R110). -/

namespace Sys2Proof.Machine

/-! ### A signed value cut to a field's width -/

/-- A register's signed value cut to `n` bits has the register's low bits. -/
theorem extractLsb'_ofInt_toInt {w n start len : Nat} (x : BitVec w) (hn : n ≤ w)
    (h : start + len ≤ n) :
    (BitVec.ofInt n x.toInt).extractLsb' start len = x.extractLsb' start len := by
  change (x.signExtend n).extractLsb' start len = _
  rw [BitVec.signExtend_eq_setWidth_of_le x hn, BitVec.extractLsb'_setWidth_of_le h]

theorem toNat_ofInt_of_bounds {n : Nat} {v : Int} (h0 : 0 ≤ v) (h : v < 2 ^ n) :
    ((BitVec.ofInt n v).toNat : Int) = v := by
  rw [BitVec.toNat_ofInt, Nat.cast_pow, Nat.cast_ofNat, Int.emod_eq_of_lt h0 h, Int.toNat_of_nonneg h0]

/-! ### The big-endian word (R59) -/

theorem Memory.readBE32_eq_append (m : Memory) (off : Nat) :
    m.readBE32 off = m.read off ++ m.read (off + 1) ++ m.read (off + 2) ++ m.read (off + 3) := by
  apply BitVec.eq_of_getLsbD_eq
  intro i hi
  simp only [BitVec.getLsbD_append]
  interval_cases i <;> simp [Memory.readBE32]

/-- A big-endian read gives back the word of a big-endian write. -/
theorem Memory.readBE32_writeBE32 (m : Memory) (off : Nat) (w : Word) :
    (m.writeBE32 off w).readBE32 off = w := by
  rw [Memory.readBE32_eq_append]
  simp only [Memory.read_writeBE32]
  apply BitVec.eq_of_getLsbD_eq
  intro i hi
  simp only [BitVec.getLsbD_append]
  interval_cases i <;> simp

/-! ### The split 10-bit value (R60) -/

theorem value10_eq_append (low next : Byte) : value10 low next = next.extractLsb' 4 2 ++ low := by
  apply BitVec.eq_of_getLsbD_eq
  intro i hi
  rw [BitVec.getLsbD_append]
  interval_cases i <;> simp [value10]

theorem toNat_value10 (low next : Byte) :
    (value10 low next).toNat = next.toNat / 16 % 4 * 256 + low.toNat := by
  rw [value10_eq_append, BitVec.toNat_append, ← Nat.shiftLeft_add_eq_or_of_lt low.isLt,
    BitVec.extractLsb'_toNat, Nat.shiftLeft_eq, Nat.shiftRight_eq_div_pow]

theorem merge10_value (old : Byte) (v : BitVec 10) :
    (merge10 old v).extractLsb' 4 2 = v.extractLsb' 8 2 := by
  apply BitVec.eq_of_getLsbD_eq
  intro i hi
  interval_cases i <;> simp [merge10]

theorem merge10_low (old : Byte) (v : BitVec 10) :
    (merge10 old v).extractLsb' 0 4 = old.extractLsb' 0 4 := by
  apply BitVec.eq_of_getLsbD_eq
  intro i hi
  interval_cases i <;> simp [merge10]

theorem merge10_high (old : Byte) (v : BitVec 10) :
    (merge10 old v).extractLsb' 6 2 = old.extractLsb' 6 2 := by
  apply BitVec.eq_of_getLsbD_eq
  intro i hi
  interval_cases i <;> simp [merge10]

theorem merge10_merge10 (old : Byte) (u v : BitVec 10) :
    merge10 (merge10 old u) v = merge10 old v := by
  apply BitVec.eq_of_getLsbD_eq
  intro i hi
  interval_cases i <;> simp [merge10]

theorem value10_merge10 (old : Byte) (v : BitVec 10) :
    value10 (v.extractLsb' 0 8) (merge10 old v) = v := by
  rw [value10_eq_append, merge10_value]
  apply BitVec.eq_of_getLsbD_eq
  intro i hi
  rw [BitVec.getLsbD_append]
  interval_cases i <;> simp

/-! ### Nibbles (R106, R107) -/

theorem mergeNib_value (old : Byte) (hi : Bool) (v : BitVec 4) :
    (mergeNib old hi v).extractLsb' (if hi then 4 else 0) 4 = v := by
  apply BitVec.eq_of_getLsbD_eq
  intro i hi'
  cases hi <;> interval_cases i <;> simp [mergeNib]

theorem mergeNib_other (old : Byte) (hi : Bool) (v : BitVec 4) :
    (mergeNib old hi v).extractLsb' (if hi then 0 else 4) 4 =
      old.extractLsb' (if hi then 0 else 4) 4 := by
  apply BitVec.eq_of_getLsbD_eq
  intro i hi'
  cases hi <;> interval_cases i <;> simp [mergeNib]

theorem mergeNib_mergeNib (old : Byte) (hi : Bool) (u v : BitVec 4) :
    mergeNib (mergeNib old hi u) hi v = mergeNib old hi v := by
  apply BitVec.eq_of_getLsbD_eq
  intro i hi'
  cases hi <;> interval_cases i <;> simp [mergeNib]

/-! ### One bit (R108, R109) -/

theorem getLsbD_or_one_shiftLeft (x : Byte) {i : Nat} (hi : i < 8) (j : Nat) :
    (x ||| ((1 : Byte) <<< i)).getLsbD j = (x.getLsbD j || decide (j = i)) := by
  have hbit : (1 : Byte) <<< i = BitVec.twoPow 8 i := (BitVec.twoPow_eq 8 i).symm
  rw [hbit, BitVec.getLsbD_or, BitVec.getLsbD_twoPow, decide_eq_true hi, Bool.true_and]
  simp only [eq_comm]

theorem toNat_ushiftRight_and_one (x : Byte) (i : Nat) :
    ((x >>> i) &&& 0x01#8).toNat = (x.getLsbD i).toNat := by
  rw [BitVec.toNat_and, BitVec.toNat_ushiftRight, BitVec.getLsbD, Nat.toNat_testBit,
    Nat.shiftRight_eq_div_pow]
  exact Nat.and_one_is_mod _

/-! ### A value under a mask (R110) -/

/-- The value shifted to the place of its field, which the model writes as a shift of naturals. -/
theorem toNat_mul_two_pow (v : Int) (sh : Nat) : (v * 2 ^ sh).toNat = v.toNat <<< sh := by
  have hpow : (0 : Int) ≤ 2 ^ sh := by positivity
  obtain hv | hv := Int.le_total 0 v
  · rw [Nat.shiftLeft_eq, Int.toNat_mul hv hpow]
    rfl
  · rw [Int.toNat_of_nonpos hv, Int.toNat_of_nonpos (Int.mul_nonpos_of_nonpos_of_nonneg hv hpow),
      Nat.zero_shiftLeft]

/-- No bit of the number lies outside the mask (R110). -/
def InMask (mask : Byte) (n : Nat) : Prop := ∀ j, n.testBit j = true → mask.getLsbD j = true

theorem getLsbD_ofNat_byte {n : Nat} (hn : n ≤ 255) (j : Nat) :
    (BitVec.ofNat 8 n).getLsbD j = n.testBit j := by
  rw [BitVec.getLsbD, BitVec.toNat_ofNat, Nat.mod_eq_of_lt (by omega)]

theorem and_not_eq_zero_iff_inMask {mask : Byte} {n : Nat} (hn : n ≤ 255) :
    BitVec.ofNat 8 n &&& ~~~mask = 0 ↔ InMask mask n := by
  have hbit (j : Nat) (hj : j < 8) : (BitVec.ofNat 8 n &&& ~~~mask).getLsbD j = false ↔
      (n.testBit j = true → mask.getLsbD j = true) := by
    rw [BitVec.getLsbD_and, BitVec.getLsbD_not, getLsbD_ofNat_byte hn, decide_eq_true hj]
    cases n.testBit j <;> simp
  constructor
  · intro h0 j hj
    have hj8 : j < 8 := BitVec.lt_of_getLsbD (x := BitVec.ofNat 8 n) (by rwa [getLsbD_ofNat_byte hn])
    exact (hbit j hj8).mp (by rw [h0]; exact BitVec.getLsbD_zero) hj
  · intro hm
    apply BitVec.eq_of_getLsbD_eq
    intro j hj
    rw [(hbit j hj).mpr (hm j)]
    exact BitVec.getLsbD_zero.symm

theorem fitsMask_iff {mask : Byte} {sh : Nat} {v : Int} :
    fitsMask mask sh v = true ↔
      0 ≤ v ∧ v * 2 ^ sh ≤ 255 ∧ InMask mask (v * 2 ^ sh).toNat := by
  simp only [fitsMask, Bool.and_eq_true, decide_eq_true_eq, and_assoc, ← toNat_mul_two_pow]
  refine and_congr_right fun _ => ?_
  rw [show v * 2 ^ sh ≤ 255 ↔ (v * 2 ^ sh).toNat ≤ 255 by omega]
  exact and_congr_right and_not_eq_zero_iff_inMask

/-- The bits under the mask become those of the number, the others are kept. -/
theorem getLsbD_setmask {mask : Byte} {n : Nat} (hn : n ≤ 255) (h : InMask mask n) (old : Byte)
    (j : Nat) :
    ((old &&& ~~~mask) ||| BitVec.ofNat 8 n).getLsbD j =
      if mask.getLsbD j then n.testBit j else old.getLsbD j := by
  rw [BitVec.getLsbD_or, BitVec.getLsbD_and, BitVec.getLsbD_not, getLsbD_ofNat_byte hn]
  cases hm : mask.getLsbD j with
  | true => simp
  | false =>
    have hnj : n.testBit j = false := Bool.eq_false_iff.mpr fun ht => by simp [h j ht] at hm
    have hold : 8 ≤ j → old.getLsbD j = false := BitVec.getLsbD_of_ge old j
    by_cases hj : j < 8
    · simp [hj, hnj]
    · simp [hj, hnj, hold (by omega)]

/-- Under the mask the byte is the number. -/
theorem setmask_and_mask {mask : Byte} {n : Nat} (hn : n ≤ 255) (h : InMask mask n) (old : Byte) :
    ((old &&& ~~~mask) ||| BitVec.ofNat 8 n) &&& mask = BitVec.ofNat 8 n := by
  apply BitVec.eq_of_getLsbD_eq
  intro j hj
  rw [BitVec.getLsbD_and, getLsbD_setmask hn h, getLsbD_ofNat_byte hn]
  cases hm : mask.getLsbD j with
  | true => simp
  | false => simpa [hm] using h j

/-- Outside the mask the byte is the old one. -/
theorem setmask_and_not_mask {mask : Byte} {n : Nat} (hn : n ≤ 255) (h : InMask mask n) (old : Byte) :
    ((old &&& ~~~mask) ||| BitVec.ofNat 8 n) &&& ~~~mask = old &&& ~~~mask := by
  apply BitVec.eq_of_getLsbD_eq
  intro j hj
  rw [BitVec.getLsbD_and, BitVec.getLsbD_and, getLsbD_setmask hn h, BitVec.getLsbD_not]
  cases mask.getLsbD j <;> simp

end Sys2Proof.Machine
end

section
/-! SUPPORT. The codec primitives on a buffer: when a write or a read fails and with what, and what a
read and a second write find after a write (40_codec.md R101 to R111, 60_exceptions.md R205). -/

namespace Sys2Proof.Machine

open Sys2Proof.Claims

variable {b b' : Memory} {off : Nat} {v : Int}

/-! ### The value check, which comes first (R205) -/

theorem inInt32_iff_not_outside (v : Int) : inInt32 v = true ↔ ¬OutsideInt32 v := by
  rw [inInt32_iff]
  omega

theorem cdcWr32_outOfRange (h : OutsideInt32 v) : cdcWr32 b off v = .error .outOfRange := by
  have hv : ¬inInt32 v = true := by rwa [inInt32_iff_not_outside, not_not]
  simp [cdcWr32, hv]

theorem cdcWr10_outOfRange (h : v < 0 ∨ 1023 < v) : cdcWr10 b off v = .error .outOfRange := by
  have hv : ¬inU10 v = true := by rw [inU10_iff]; omega
  simp [cdcWr10, hv]

theorem cdcWrnib_outOfRange {hi : Bool} (h : v < 0 ∨ 15 < v) :
    cdcWrnib b off v hi = .error .outOfRange := by
  have hv : ¬inU4 v = true := by rw [inU4_iff]; omega
  simp [cdcWrnib, hv]

theorem cdcSetmask_outOfRange {mask : Byte} {sh : Nat}
    (h : v < 0 ∨ 255 < v * 2 ^ sh ∨
      ∃ j, (v * 2 ^ sh).toNat.testBit j = true ∧ mask.getLsbD j = false) :
    cdcSetmask b off mask sh v = .error .outOfRange := by
  have hv : ¬fitsMask mask sh v = true := by
    rw [fitsMask_iff]
    rintro ⟨h0, h255, hm⟩
    obtain hneg | hbig | ⟨j, hj, hmj⟩ := h
    · omega
    · omega
    · exact Bool.false_ne_true (hmj.symm.trans (hm j hj))
  simp [cdcSetmask, hv]

/-! ### The bounds check (R101) -/

theorem fitsBuf_eq_false {off n : Nat} (h : 64 < off + n) : fitsBuf off n = false := by
  rw [← Bool.not_eq_true, fitsBuf_iff]
  omega

theorem cdcWr32_invalidLayout (hv : ¬OutsideInt32 v) (h : 60 < off) :
    cdcWr32 b off v = .error .invalidLayout := by
  simp [cdcWr32, (inInt32_iff_not_outside v).mpr hv,
    fitsBuf_eq_false (show 64 < off + 4 by omega)]

theorem cdcRd32_invalidLayout (h : 60 < off) : cdcRd32 b off = .error .invalidLayout := by
  simp [cdcRd32, fitsBuf_eq_false (show 64 < off + 4 by omega)]

theorem cdcWr10_invalidLayout (h0 : 0 ≤ v) (h1023 : v ≤ 1023) (h : 62 < off) :
    cdcWr10 b off v = .error .invalidLayout := by
  simp [cdcWr10, (inU10_iff v).mpr ⟨h0, h1023⟩, fitsBuf_eq_false (show 64 < off + 2 by omega)]

theorem cdcRd10_invalidLayout (h : 62 < off) : cdcRd10 b off = .error .invalidLayout := by
  simp [cdcRd10, fitsBuf_eq_false (show 64 < off + 2 by omega)]

theorem cdcWrnib_invalidLayout {hi : Bool} (h0 : 0 ≤ v) (h15 : v ≤ 15) (h : 63 < off) :
    cdcWrnib b off v hi = .error .invalidLayout := by
  simp [cdcWrnib, (inU4_iff v).mpr ⟨h0, h15⟩, fitsBuf_eq_false (show 64 < off + 1 by omega)]

theorem cdcRdnib_invalidLayout {hi : Bool} (h : 63 < off) :
    cdcRdnib b off hi = .error .invalidLayout := by
  simp [cdcRdnib, fitsBuf_eq_false (show 64 < off + 1 by omega)]

theorem cdcSetbit_invalidLayout {i : Nat} (h : 63 < off) :
    cdcSetbit b off i = .error .invalidLayout := by
  simp [cdcSetbit, fitsBuf_eq_false (show 64 < off + 1 by omega)]

theorem cdcGetbit_invalidLayout {i : Nat} (h : 63 < off) :
    cdcGetbit b off i = .error .invalidLayout := by
  simp [cdcGetbit, fitsBuf_eq_false (show 64 < off + 1 by omega)]

theorem cdcSetmask_invalidLayout {mask : Byte} {sh : Nat} (hv : fitsMask mask sh v = true)
    (h : 63 < off) : cdcSetmask b off mask sh v = .error .invalidLayout := by
  simp [cdcSetmask, hv, fitsBuf_eq_false (show 64 < off + 1 by omega)]

/-! ### A write of an admitted value within the bounds -/

theorem cdcWr32_ok (b : Memory) (hv : ¬OutsideInt32 v) (h : off ≤ 60) :
    cdcWr32 b off v = .ok (b.writeBE32 off (BitVec.ofInt 32 v)) :=
  cdcWr32_eq_ok.mpr ⟨(inInt32_iff_not_outside v).mpr hv, (fitsBuf_iff off 4).mpr (by omega), rfl⟩

theorem cdcWr10_ok (b : Memory) (h0 : 0 ≤ v) (h1023 : v ≤ 1023) (h : off ≤ 62) :
    cdcWr10 b off v = .ok ((b.write off ((BitVec.ofInt 10 v).extractLsb' 0 8)).write (off + 1)
      (merge10 (b.read (off + 1)) (BitVec.ofInt 10 v))) :=
  cdcWr10_eq_ok.mpr ⟨(inU10_iff v).mpr ⟨h0, h1023⟩, (fitsBuf_iff off 2).mpr (by omega), rfl⟩

theorem cdcWrnib_ok (b : Memory) (hi : Bool) (h0 : 0 ≤ v) (h15 : v ≤ 15) (h : off ≤ 63) :
    cdcWrnib b off v hi = .ok (b.write off (mergeNib (b.read off) hi (BitVec.ofInt 4 v))) :=
  cdcWrnib_eq_ok.mpr ⟨(inU4_iff v).mpr ⟨h0, h15⟩, (fitsBuf_iff off 1).mpr (by omega), rfl⟩

theorem cdcSetbit_ok (b : Memory) (i : Nat) (h : off ≤ 63) :
    cdcSetbit b off i = .ok (b.write off (b.read off ||| ((1 : Byte) <<< i))) :=
  cdcSetbit_eq_ok.mpr ⟨(fitsBuf_iff off 1).mpr (by omega), rfl⟩

/-- The byte is that of `getLsbD_setmask`, with the shifted value as an integer product. -/
theorem cdcSetmask_ok (b : Memory) {mask : Byte} {sh : Nat} (hv : fitsMask mask sh v = true)
    (h : off ≤ 63) :
    cdcSetmask b off mask sh v =
      .ok (b.write off ((b.read off &&& ~~~mask) ||| BitVec.ofNat 8 (v * 2 ^ sh).toNat)) :=
  cdcSetmask_eq_ok.mpr ⟨hv, (fitsBuf_iff off 1).mpr (by omega), by rw [toNat_mul_two_pow]⟩

/-! ### A read within the bounds, as a bit range -/

theorem cdcRd32_ok (h : off ≤ 60) : cdcRd32 b off = .ok (b.readBE32 off).toInt :=
  cdcRd32_eq_ok.mpr ⟨(fitsBuf_iff _ _).mpr (by omega), rfl⟩

theorem cdcRd10_ok (h : off ≤ 62) :
    cdcRd10 b off = .ok (value10 (b.read off) (b.read (off + 1))).toNat :=
  cdcRd10_eq_ok.mpr ⟨(fitsBuf_iff _ _).mpr (by omega), rfl⟩

theorem cdcRdnib_ok (h : off ≤ 63) (hi : Bool) :
    cdcRdnib b off hi = .ok ((b.read off).extractLsb' (if hi then 4 else 0) 4).toNat := by
  refine cdcRdnib_eq_ok.mpr ⟨(fitsBuf_iff _ _).mpr (by omega), ?_⟩
  have hlt := (b.read off).isLt
  cases hi with
  | true =>
    simp only [if_true, BitVec.toNat_ushiftRight, BitVec.extractLsb'_toNat,
      Nat.shiftRight_eq_div_pow]
    omega
  | false =>
    simp only [Bool.false_eq_true, if_false, BitVec.toNat_and, BitVec.extractLsb'_toNat,
      Nat.shiftRight_zero]
    exact congrArg _ (Nat.and_two_pow_sub_one_eq_mod _ 4).symm

theorem cdcGetbit_ok (h : off ≤ 63) (i : Nat) :
    cdcGetbit b off i = .ok ((b.read off).getLsbD i).toNat :=
  cdcGetbit_eq_ok.mpr ⟨(fitsBuf_iff _ _).mpr (by omega), by rw [toNat_ushiftRight_and_one]⟩

/-! ### A second write to the same place of a canonical buffer -/

theorem Memory.write_write_same {size a : Nat} {m : Memory} (hm : m.wf size = true) (ha : a < size)
    (x y : Byte) : (m.write a x).write a y = m.write a y := by
  refine Memory.ext_of_wf (Memory.wf_write _ ha (Memory.wf_write _ ha hm)) (Memory.wf_write _ ha hm)
    fun k => ?_
  simp only [Memory.read_write]
  split <;> rfl

theorem Memory.write_pair_overwrite {size a : Nat} {m : Memory} (hm : m.wf size = true)
    (ha : a + 2 ≤ size) (x y x' y' : Byte) :
    (((m.write a x).write (a + 1) y).write a x').write (a + 1) y' =
      (m.write a x').write (a + 1) y' := by
  have hwf {m : Memory} (hm : m.wf size = true) (x y : Byte) :
      ((m.write a x).write (a + 1) y).wf size = true :=
    Memory.wf_write _ (by omega) (Memory.wf_write _ (by omega) hm)
  refine Memory.ext_of_wf (hwf (hwf hm _ _) _ _) (hwf hm _ _) fun k => ?_
  simp only [Memory.read_write]
  split_ifs <;> rfl

theorem Memory.writeBE32_writeBE32 {size off : Nat} {m : Memory} (hm : m.wf size = true)
    (h : off + 4 ≤ size) (x y : Word) :
    (m.writeBE32 off x).writeBE32 off y = m.writeBE32 off y := by
  refine Memory.ext_of_wf (Memory.wf_writeBE32 _ h (Memory.wf_writeBE32 _ h hm))
    (Memory.wf_writeBE32 _ h hm) fun k => ?_
  simp only [Memory.read_writeBE32]
  split_ifs <;> rfl

theorem cdcWr32_overwrite (hb : b.wf 64 = true) {u : Int} (h : cdcWr32 b off u = .ok b') (v : Int) :
    cdcWr32 b' off v = cdcWr32 b off v := by
  obtain ⟨-, hf, rfl⟩ := cdcWr32_eq_ok.mp h
  simp only [cdcWr32, Memory.writeBE32_writeBE32 hb ((fitsBuf_iff _ _).mp hf)]

theorem cdcWr10_overwrite (hb : b.wf 64 = true) {u : Int} (h : cdcWr10 b off u = .ok b') (v : Int) :
    cdcWr10 b' off v = cdcWr10 b off v := by
  obtain ⟨-, hf, rfl⟩ := cdcWr10_eq_ok.mp h
  simp only [cdcWr10, Memory.read_write_same, merge10_merge10,
    Memory.write_pair_overwrite hb ((fitsBuf_iff _ _).mp hf)]

theorem cdcWrnib_overwrite (hb : b.wf 64 = true) {u : Int} {hi : Bool}
    (h : cdcWrnib b off u hi = .ok b') (v : Int) : cdcWrnib b' off v hi = cdcWrnib b off v hi := by
  obtain ⟨-, hf, rfl⟩ := cdcWrnib_eq_ok.mp h
  simp only [cdcWrnib, Memory.read_write_same, mergeNib_mergeNib,
    Memory.write_write_same hb ((fitsBuf_iff _ _).mp hf)]

theorem cdcSetmask_overwrite (hb : b.wf 64 = true) {mask : Byte} {sh : Nat} {u : Int}
    (h : cdcSetmask b off mask sh u = .ok b') (v : Int) :
    cdcSetmask b' off mask sh v = cdcSetmask b off mask sh v := by
  obtain ⟨hu, hf, rfl⟩ := cdcSetmask_eq_ok.mp h
  obtain ⟨-, h255, hmask⟩ := fitsMask_iff.mp hu
  have hkept := setmask_and_not_mask (by omega) hmask (b.read off)
  rw [toNat_mul_two_pow] at hkept
  simp only [cdcSetmask, Memory.read_write_same, hkept,
    Memory.write_write_same hb ((fitsBuf_iff _ _).mp hf)]

/-- Setting a bit that is already set changes nothing. -/
theorem cdcSetbit_idempotent (hb : b.wf 64 = true) {i : Nat} (h : cdcSetbit b off i = .ok b') :
    cdcSetbit b' off i = .ok b' := by
  obtain ⟨hf, rfl⟩ := cdcSetbit_eq_ok.mp h
  refine cdcSetbit_eq_ok.mpr ⟨hf, ?_⟩
  rw [Memory.read_write_same, BitVec.or_assoc, BitVec.or_self,
    Memory.write_write_same hb ((fitsBuf_iff _ _).mp hf)]

/-! ### A read after a write to the same place -/

theorem cdcRd32_of_cdcWr32 (h : cdcWr32 b off v = .ok b') : cdcRd32 b' off = .ok v := by
  obtain ⟨hv, hf, rfl⟩ := cdcWr32_eq_ok.mp h
  obtain ⟨hlo, hhi⟩ := (inInt32_iff v).mp hv
  refine cdcRd32_eq_ok.mpr ⟨hf, ?_⟩
  rw [Memory.readBE32_writeBE32, BitVec.toInt_ofInt_eq_self (by decide) hlo (by omega)]

theorem cdcRd10_of_cdcWr10 (h : cdcWr10 b off v = .ok b') : cdcRd10 b' off = .ok v := by
  obtain ⟨hv, hf, rfl⟩ := cdcWr10_eq_ok.mp h
  obtain ⟨hlo, hhi⟩ := (inU10_iff v).mp hv
  refine cdcRd10_eq_ok.mpr ⟨hf, ?_⟩
  rw [Memory.read_write_same, Memory.read_write_other _ _ (by omega), Memory.read_write_same,
    value10_merge10, toNat_ofInt_of_bounds hlo (by omega)]

theorem cdcRdnib_of_cdcWrnib {hi : Bool} (h : cdcWrnib b off v hi = .ok b') :
    cdcRdnib b' off hi = .ok v := by
  obtain ⟨hv, hf, rfl⟩ := cdcWrnib_eq_ok.mp h
  obtain ⟨hlo, hhi⟩ := (inU4_iff v).mp hv
  have hoff : off + 1 ≤ 64 := (fitsBuf_iff _ _).mp hf
  rw [cdcRdnib_ok (by omega), Memory.read_write_same, mergeNib_value,
    toNat_ofInt_of_bounds hlo (by omega)]

theorem cdcGetbit_of_cdcSetbit {i : Nat} (hi : i < 8) (h : cdcSetbit b off i = .ok b') :
    cdcGetbit b' off i = .ok 1 := by
  obtain ⟨hf, rfl⟩ := cdcSetbit_eq_ok.mp h
  have hoff : off + 1 ≤ 64 := (fitsBuf_iff _ _).mp hf
  rw [cdcGetbit_ok (by omega), Memory.read_write_same, getLsbD_or_one_shiftLeft _ hi]
  simp

/-- An accepted SETMASK leaves the shifted value under the mask. -/
theorem read_and_mask_of_cdcSetmask {mask : Byte} {sh : Nat}
    (h : cdcSetmask b off mask sh v = .ok b') :
    ((b'.read off &&& mask).toNat : Int) = v * 2 ^ sh := by
  obtain ⟨hv, -, rfl⟩ := cdcSetmask_eq_ok.mp h
  obtain ⟨h0, h255, hmask⟩ := fitsMask_iff.mp hv
  have hpos : 0 ≤ v * 2 ^ sh := Int.mul_nonneg h0 (by positivity)
  rw [Memory.read_write_same, ← toNat_mul_two_pow, setmask_and_mask (by omega) hmask,
    BitVec.toNat_ofNat, Nat.mod_eq_of_lt (by omega), Int.toNat_of_nonneg hpos]

end Sys2Proof.Machine
end

section
/-! SUPPORT. What a codec command makes of its primitive's answer: error entry, a new BUF or a new RES
(30_encoding.md R87), and the claims' words of the buffer that a primitive leaves. -/

namespace Sys2Proof.Machine

open Sys2Proof.Claims

/-- The state after a command that succeeded and wrote BUF alone. -/
def withBuf (s : State) (m : Memory) : State :=
  { s with blk := { s.blk with buf := m, err := .ok } }

@[simp] theorem withBuf_buf (s : State) (m : Memory) : (withBuf s m).blk.buf = m := rfl

theorem wroteBufAlone_withBuf (s : State) (m : Memory) : WroteBufAlone s (withBuf s m) := rfl

section Command

variable {i : Instr} {s : State} {legal : Mode → Bool}

/-- A command whose body fails in a mode that admits it ends in error entry with the body's error. -/
theorem failsWith_of_body {body : Block → Except CmdError Block} {e : CmdError}
    (hi : exec i s = s.command legal body) (hl : legal s.blk.mode = true) (hb : body s.blk = .error e) :
    FailsWith i s e := by
  refine ⟨s.fail e, ?_, afterError_fail s e⟩
  rw [hi, State.command_eq, Block.command_error hl hb, State.fail]

/-- A write command whose primitive fails (R87, R206). -/
theorem failsWith_of_write {r : Block → Except CmdError Memory} {e : CmdError}
    (hi : exec i s = s.command buildingOnly fun b => b.putBuf (r b)) (hm : s.blk.mode = .building)
    (hr : r s.blk = .error e) : FailsWith i s e :=
  failsWith_of_body hi ((buildingOnly_iff _).mpr hm) (by rw [hr, Block.putBuf_error])

/-- A write command whose primitive gives a buffer (R87). -/
theorem exec_eq_withBuf {r : Block → Except CmdError Memory} {m : Memory}
    (hi : exec i s = s.command buildingOnly fun b => b.putBuf (r b)) (hm : s.blk.mode = .building)
    (hr : r s.blk = .ok m) : exec i s = .next (withBuf s m) := by
  rw [hi, State.command_eq,
    Block.command_ok ((buildingOnly_iff _).mpr hm) (by rw [hr, Block.putBuf_ok])]
  rfl

/-- A value-producing command whose primitive fails (R87, R206). -/
theorem failsWith_of_read {r : Block → Except CmdError Int} {e : CmdError}
    (hi : exec i s = s.command legal fun b => b.putRes (r b)) (hl : legal s.blk.mode = true)
    (hr : r s.blk = .error e) : FailsWith i s e :=
  failsWith_of_body hi hl (by rw [hr, Block.putRes_error])

/-- A value-producing command whose primitive gives a value (R26, R87). -/
theorem exec_eq_withResult {r : Block → Except CmdError Int} {v : Int}
    (hi : exec i s = s.command legal fun b => b.putRes (r b)) (hl : legal s.blk.mode = true)
    (hr : r s.blk = .ok v) : exec i s = .next (withResult s (BitVec.ofInt 64 v)) := by
  rw [hi, State.command_eq, Block.command_ok hl (by rw [hr, Block.putRes_ok])]
  rfl

end Command

/-! ### The buffer that a write leaves -/

theorem bytesKept_write (s : State) (off : Nat) (x : Byte) :
    BytesKept s (withBuf s (s.blk.buf.write off x)) off 1 :=
  fun _ ha => Memory.read_write_other _ _ (by omega)

theorem bytesKept_write_pair (s : State) (off : Nat) (x y : Byte) :
    BytesKept s (withBuf s ((s.blk.buf.write off x).write (off + 1) y)) off 2 := fun a ha => by
  rw [withBuf_buf, Memory.read_write_other _ _ (by omega), Memory.read_write_other _ _ (by omega)]

theorem bytesKept_writeBE32 (s : State) (off : Nat) (w : Word) :
    BytesKept s (withBuf s (s.blk.buf.writeBE32 off w)) off 4 := fun a ha => by
  rw [withBuf_buf, Memory.read_writeBE32, if_neg (by omega), if_neg (by omega), if_neg (by omega),
    if_neg (by omega)]

theorem holdsBigEndian_writeBE32 (s : State) (off : Nat) (x : DWord) :
    HoldsBigEndian (withBuf s (s.blk.buf.writeBE32 off (BitVec.ofInt 32 x.toInt))) off x := by
  have hbyte (start : Nat) (h : start + 8 ≤ 32) := extractLsb'_ofInt_toInt x (by decide) h
  simp [HoldsBigEndian, Memory.read_writeBE32, hbyte]

theorem holds10_merge10 (s : State) (off : Nat) (x : DWord) :
    Holds10 s (withBuf s ((s.blk.buf.write off ((BitVec.ofInt 10 x.toInt).extractLsb' 0 8)).write
      (off + 1) (merge10 (s.blk.buf.read (off + 1)) (BitVec.ofInt 10 x.toInt)))) off x := by
  rw [Holds10, withBuf_buf, Memory.read_write_same, merge10_value, merge10_low, merge10_high,
    Memory.read_write_other _ _ (by omega), Memory.read_write_same]
  exact ⟨extractLsb'_ofInt_toInt x (by decide) (by decide),
    extractLsb'_ofInt_toInt x (by decide) (by decide), rfl, rfl⟩

theorem holdsNibble_mergeNib (s : State) (off : Nat) (hi : Bool) (x : DWord) :
    HoldsNibble s (withBuf s (s.blk.buf.write off
      (mergeNib (s.blk.buf.read off) hi (BitVec.ofInt 4 x.toInt)))) off hi x := by
  rw [HoldsNibble, withBuf_buf, Memory.read_write_same, mergeNib_value, mergeNib_other]
  exact ⟨by rw [← extractLsb'_ofInt_toInt x (by decide) (le_refl 4), BitVec.extractLsb'_eq_self], rfl⟩

theorem hasBitSet_write (s : State) (off : Nat) {i : Nat} (hi : i < 8) :
    HasBitSet s (withBuf s (s.blk.buf.write off (s.blk.buf.read off ||| ((1 : Byte) <<< i)))) off i := by
  rw [HasBitSet, withBuf_buf, Memory.read_write_same]
  simp only [getLsbD_or_one_shiftLeft _ hi, decide_true, Bool.or_true, true_and]
  exact fun j hj => by rw [decide_eq_false hj, Bool.or_false]

/-! ### The value that a read gives -/

theorem ofInt_readBE32 (s : State) (off : Nat) :
    BitVec.ofInt 64 (s.blk.buf.readBE32 off).toInt = value32 s off := by
  rw [Memory.readBE32_eq_append]
  rfl

theorem ofInt_value10 (s : State) (off : Nat) :
    BitVec.ofInt 64 (value10 (s.blk.buf.read off) (s.blk.buf.read (off + 1))).toNat =
      value10At s off := by
  rw [BitVec.ofInt_natCast, toNat_value10]
  rfl

theorem ofInt_nibble (s : State) (off : Nat) (hi : Bool) :
    BitVec.ofInt 64 ((s.blk.buf.read off).extractLsb' (if hi then 4 else 0) 4).toNat =
      nibbleAt s off hi := by
  have hlt := (s.blk.buf.read off).isLt
  rw [BitVec.ofInt_natCast, BitVec.extractLsb'_toNat, nibbleAt, Nat.shiftRight_eq_div_pow]
  refine congrArg _ ?_
  cases hi with
  | true => exact Nat.mod_eq_of_lt (by simp only [if_true]; omega)
  | false => simp

theorem ofInt_bit (s : State) (off i : Nat) :
    BitVec.ofInt 64 ((s.blk.buf.read off).getLsbD i).toNat = bitAt s off i := by
  rw [BitVec.ofInt_natCast, bitAt]
  cases (s.blk.buf.read off).getLsbD i <;> rfl

end Sys2Proof.Machine
end

section
/-! The statements of 40_codec.md about the raw codec commands and the laws of their primitives. -/

namespace Sys2Proof.Machine

open Sys2Proof.Claims

/-- Settles O12: the value check, then the bounds check, then the four bytes of the big-endian word. -/
theorem wr32WritesBigEndian : Obligations.Wr32WritesBigEndian := by
  refine ⟨fun _ => decode_wr32, fun off s => failsWith_of_not_building rfl,
    fun off s hm => ⟨fun hv => ?_, fun hv hoff => ?_, fun hv hoff => ?_⟩⟩
  · exact failsWith_of_write rfl hm (cdcWr32_outOfRange hv)
  · exact failsWith_of_write rfl hm (cdcWr32_invalidLayout hv hoff)
  · exact ⟨_, exec_eq_withBuf rfl hm (cdcWr32_ok s.blk.buf hv hoff),
      wroteBufAlone_withBuf _ _, holdsBigEndian_writeBE32 _ _ _, bytesKept_writeBE32 _ _ _⟩

/-- Settles O13: within the bounds RES takes the word of four bytes. -/
theorem rd32ReadsBigEndian : Obligations.Rd32ReadsBigEndian := by
  refine ⟨fun _ => decode_rd32, fun off s => ⟨fun hoff => ?_, fun hoff => ?_⟩⟩
  · exact failsWith_of_read rfl (anyMode_eq_true _) (cdcRd32_invalidLayout hoff)
  · rw [← ofInt_readBE32]
    exact exec_eq_withResult rfl (anyMode_eq_true _) (cdcRd32_ok hoff)

/-- Settles O14: the value check, then the bounds check, then the low byte and the merged second byte. -/
theorem wr10WritesSplitValue : Obligations.Wr10WritesSplitValue := by
  refine ⟨fun _ => decode_wr10, fun off s => failsWith_of_not_building rfl,
    fun off s hm => ⟨fun hv => ?_, fun h0 h1023 hoff => ?_, fun h0 h1023 hoff => ?_⟩⟩
  · exact failsWith_of_write rfl hm (cdcWr10_outOfRange hv)
  · exact failsWith_of_write rfl hm (cdcWr10_invalidLayout h0 h1023 hoff)
  · exact ⟨_, exec_eq_withBuf rfl hm (cdcWr10_ok s.blk.buf h0 h1023 hoff),
      wroteBufAlone_withBuf _ _, holds10_merge10 _ _ _, bytesKept_write_pair _ _ _ _⟩

/-- Settles O15: within the bounds RES takes bits 5:4 of the second byte above the first. -/
theorem rd10ReadsSplitValue : Obligations.Rd10ReadsSplitValue := by
  refine ⟨fun _ => decode_rd10, fun off s => ⟨fun hoff => ?_, fun hoff => ?_⟩⟩
  · exact failsWith_of_read rfl (anyMode_eq_true _) (cdcRd10_invalidLayout hoff)
  · rw [← ofInt_value10]
    exact exec_eq_withResult rfl (anyMode_eq_true _) (cdcRd10_ok hoff)

/-- Settles O16: the value check, then the bounds check, then the byte with one nibble replaced. -/
theorem wrnibWritesOneNibble : Obligations.WrnibWritesOneNibble := by
  refine ⟨fun _ => decode_wrnib, fun off hi s => failsWith_of_not_building rfl,
    fun off hi s hm => ⟨fun hv => ?_, fun h0 h15 hoff => ?_, fun h0 h15 hoff => ?_⟩⟩
  · exact failsWith_of_write rfl hm (cdcWrnib_outOfRange hv)
  · exact failsWith_of_write rfl hm (cdcWrnib_invalidLayout h0 h15 hoff)
  · exact ⟨_, exec_eq_withBuf rfl hm (cdcWrnib_ok s.blk.buf hi h0 h15 hoff),
      wroteBufAlone_withBuf _ _, holdsNibble_mergeNib _ _ _ _, bytesKept_write _ _ _⟩

/-- Settles O17: within the bounds RES takes the chosen nibble. -/
theorem rdnibReadsOneNibble : Obligations.RdnibReadsOneNibble := by
  refine ⟨fun _ => decode_rdnib, fun off hi s => ⟨fun hoff => ?_, fun hoff => ?_⟩⟩
  · exact failsWith_of_read rfl (anyMode_eq_true _) (cdcRdnib_invalidLayout hoff)
  · rw [← ofInt_nibble]
    exact exec_eq_withResult rfl (anyMode_eq_true _) (cdcRdnib_ok hoff hi)

/-- Settles O18: the bounds check is the only one, then the byte with one bit set. -/
theorem setbitSetsOneBit : Obligations.SetbitSetsOneBit := by
  refine ⟨fun _ => decode_setbit, fun off i s => failsWith_of_not_building rfl,
    fun off i s hi hm => ⟨fun hoff => ?_, fun hoff => ?_⟩⟩
  · exact failsWith_of_write rfl hm (cdcSetbit_invalidLayout hoff)
  · exact ⟨_, exec_eq_withBuf rfl hm (cdcSetbit_ok s.blk.buf i hoff),
      wroteBufAlone_withBuf _ _, hasBitSet_write _ _ hi, bytesKept_write _ _ _⟩

/-- Settles O19: within the bounds RES takes the bit. -/
theorem getbitReadsOneBit : Obligations.GetbitReadsOneBit := by
  refine ⟨fun _ => decode_getbit, fun off i s _ => ⟨fun hoff => ?_, fun hoff => ?_⟩⟩
  · exact failsWith_of_read rfl (anyMode_eq_true _) (cdcGetbit_invalidLayout hoff)
  · rw [← ofInt_bit]
    exact exec_eq_withResult rfl (anyMode_eq_true _) (cdcGetbit_ok hoff i)

/-- Settles O20: the three causes of OUT_OF_RANGE are those of the mask check, which comes before the
bounds check; a shifted value that fits takes the bits under the mask. -/
theorem setmaskWritesUnderMask : Obligations.SetmaskWritesUnderMask := by
  refine ⟨fun _ => decode_setmask, fun off mask sh s => failsWith_of_not_building rfl,
    fun off mask sh s _ hm => ⟨fun hv => ?_, fun h0 h255 hmask => ?_⟩⟩
  · exact failsWith_of_write rfl hm (cdcSetmask_outOfRange hv)
  have hv : fitsMask mask sh s.blk.sOPA = true := fitsMask_iff.mpr ⟨h0, h255, hmask⟩
  refine ⟨fun hoff => ?_, fun hoff => ?_⟩
  · exact failsWith_of_write rfl hm (cdcSetmask_invalidLayout hv hoff)
  · refine ⟨_, exec_eq_withBuf rfl hm (cdcSetmask_ok s.blk.buf hv hoff),
      wroteBufAlone_withBuf _ _, bytesKept_write _ _ _, fun j => ?_⟩
    rw [withBuf_buf, Memory.read_write_same]
    exact getLsbD_setmask (by omega) hmask _ j

/-- Settles O53: laws 1 to 4 hold of whatever an accepted write leaves, law 5 is the mask's, and law 6
needs the canonical form to compare buffers as lists. -/
theorem codecRoundTripAndOverwriteLaws : Obligations.CodecRoundTripAndOverwriteLaws := by
  refine fun b off => ⟨fun v hoff hv => ?_, fun v hoff h0 h1023 => ?_, fun v hi hoff h0 h15 => ?_,
    fun i hoff hi => ?_, fun _ _ _ _ => read_and_mask_of_cdcSetmask, fun hb =>
      ⟨fun _ v _ h => cdcWr32_overwrite hb h v, fun _ v _ h => cdcWr10_overwrite hb h v,
        fun _ v _ _ h => cdcWrnib_overwrite hb h v, fun _ _ _ v _ h => cdcSetmask_overwrite hb h v,
        fun _ _ => cdcSetbit_idempotent hb⟩⟩
  · have hok := cdcWr32_ok b hv (show off ≤ 60 by omega)
    exact ⟨_, hok, cdcRd32_of_cdcWr32 hok⟩
  · have hok := cdcWr10_ok b h0 h1023 (show off ≤ 62 by omega)
    exact ⟨_, hok, cdcRd10_of_cdcWr10 hok⟩
  · have hok := cdcWrnib_ok b hi h0 h15 (show off ≤ 63 by omega)
    exact ⟨_, hok, cdcRdnib_of_cdcWrnib hok⟩
  · have hok := cdcSetbit_ok b i (show off ≤ 63 by omega)
    exact ⟨_, hok, cdcGetbit_of_cdcSetbit hi hok⟩

end Sys2Proof.Machine
end

section
/-! SUPPORT. What a step in SEALED can do to the block (41_builder.md R161). -/

namespace Sys2Proof.Machine

open Sys2Proof.Claims

@[simp] theorem Block.writeReg_buf (b : Block) (d : Word) (r : HostReg) :
    (b.writeReg d r).buf = b.buf := by
  cases r <;> rfl

@[simp] theorem Block.writeReg_mode (b : Block) (d : Word) (r : HostReg) :
    (b.writeReg d r).mode = b.mode := by
  cases r <;> rfl

/-- In SEALED a CMD write other than BEGIN ends in error entry or puts a value in RES: SEAL and the
writes are legal in BUILDING only. -/
theorem cmdWrite_sealed {w : Word} {s t : State} (h : cmdWrite w s = .next t)
    (hm : s.blk.mode = .sealed) (hw : w ≠ 0x00000001) :
    (∃ e, t = s.fail e) ∨ ∃ v, t = withResult s v := by
  have hnb : s.blk.mode ≠ .building := by rw [hm]; decide
  obtain he | ⟨i, hd, hs⟩ := cmdWrite_eq_next h
  · exact .inl he
  · cases hs with
    | began hi _ => exact absurd (hi ▸ encode_of_decode hd).symm hw
    | sealedRecord _ hb _ _ => exact absurd hb hnb
    | wrote _ _ _ hb _ _ => exact absurd hb hnb
    | produced v _ ht => exact .inr ⟨v, ht⟩

end Sys2Proof.Machine
end

section
/-! SUPPORT. The builder's commands: the words of BEGIN and WITH.NAME, the seal check, and the steps
that are no raw codec command at a fixed offset (41_builder.md R141, R143, R144, R155, R156). -/

namespace Sys2Proof.Machine

open Sys2Proof.Claims

/-! ### Words -/

/-- BEGIN uses no field, so its opcode has one word that decodes (R82). -/
theorem decode_beginOpcode {w : Word} {i : Instr} (hopc : w.extractLsb' 0 8 = 0x01)
    (h : decode w = .ok i) : w = 0x00000001 := by
  have hdec : decode w = accept usesNothing (CmdFields.ofWord w) .beginBuild := by
    simp [decode, decodeFields, CmdFields.ofWord, hopc]
  obtain ⟨-, -, rfl⟩ := accept_eq_ok.mp (hdec.symm.trans h)
  exact (encode_of_decode h).symm

theorem decode_withName {w : Word} (h : w &&& 0xFFFF00FF = 0x00000020) :
    decode w = .ok (.withName (w.extractLsb' 8 8).toNat) :=
  decode_of_and_wordMask (u := usesOff) (opc := 0x20) (fun f => .withName f.off.toNat)
    (fun f hf => by simp [decodeFields, hf]) h

/-! ### The seal check (R156) -/

/-- The bits that the seal check looks at, one by one. -/
theorem mayBeSealed_iff (b : Memory) :
    MayBeSealed b ↔
      (b.read 61).getLsbD 3 = false ∧
      (∀ i, i ≠ 4 → i ≠ 5 → (b.read 59).getLsbD i = false) ∧
      ¬((b.read 61).getLsbD 6 = true ∧ (b.read 61).getLsbD 7 = true) := by
  rw [MayBeSealed, and_congr_right_iff]
  refine fun _ => ?_
  rw [← and_assoc, and_congr_left_iff]
  refine fun _ => ⟨fun ⟨hlow, hhigh⟩ i h4 h5 => ?_, fun h => ⟨?_, ?_⟩⟩
  · by_cases hi : i < 4
    · simpa [hi] using congrArg (·.getLsbD i) hlow
    · obtain ⟨j, rfl⟩ : ∃ j, i = 6 + j := ⟨i - 6, by omega⟩
      by_cases hj : j < 2
      · simpa [hj] using congrArg (·.getLsbD j) hhigh
      · exact BitVec.getLsbD_of_ge _ _ (by omega)
  · apply BitVec.eq_of_getLsbD_eq
    intro i hi
    simp [hi, h i (by omega) (by omega)]
  · apply BitVec.eq_of_getLsbD_eq
    intro i hi
    simp [hi, h (6 + i) (by omega) (by omega)]

/-- The bits of byte 59 that no field owns (R58). -/
theorem getLsbD_manaHighReserved :
    ∀ i < 8, (Layout.manaHighReserved.getLsbD i = true ↔ i ≠ 4 ∧ i ≠ 5) := by
  decide

theorem and_manaHighReserved_eq_zero_iff (x : Byte) :
    x &&& Layout.manaHighReserved = 0 ↔ ∀ i, i ≠ 4 → i ≠ 5 → x.getLsbD i = false := by
  constructor
  · intro h i h4 h5
    by_cases hi : i < 8
    · have hbit := congrArg (·.getLsbD i) h
      simpa [BitVec.getLsbD_and, (getLsbD_manaHighReserved i hi).mpr ⟨h4, h5⟩] using hbit
    · exact BitVec.getLsbD_of_ge _ _ (by omega)
  · intro h
    apply BitVec.eq_of_getLsbD_eq
    intro i hi
    refine Eq.trans ?_ BitVec.getLsbD_zero.symm
    rw [BitVec.getLsbD_and, Bool.and_eq_false_imp]
    exact fun hx => Bool.eq_false_iff.mpr fun hr =>
      have ⟨h4, h5⟩ := (getLsbD_manaHighReserved i hi).mp hr
      Bool.false_ne_true ((h i h4 h5).symm.trans hx)

/-- The Type bits are 3 when both are set. -/
theorem typeBits_eq_three_iff (x : Byte) :
    x.extractLsb' 6 2 = 3 ↔ x.getLsbD 6 = true ∧ x.getLsbD 7 = true := by
  constructor
  · intro h
    exact ⟨by simpa using congrArg (·.getLsbD 0) h, by simpa using congrArg (·.getLsbD 1) h⟩
  · rintro ⟨h6, h7⟩
    apply BitVec.eq_of_getLsbD_eq
    intro i hi
    interval_cases i <;> simp [h6, h7]

theorem sealOk_iff_mayBeSealed (b : Memory) : sealOk b = true ↔ MayBeSealed b := by
  rw [mayBeSealed_iff, ← and_manaHighReserved_eq_zero_iff, ← typeBits_eq_three_iff]
  simp only [sealOk, Layout.flagsOff, Layout.unusedBit, Layout.manaHighOff, Layout.typeShift,
    Bool.and_eq_true, Bool.not_eq_true', beq_iff_eq, bne_iff_ne, and_assoc, ne_eq]

/-- SEAL of a buffer that fails the check (R156). -/
theorem failsWith_sealRecord {s : State} (hm : s.blk.mode = .building)
    (h : ¬MayBeSealed s.blk.buf) : FailsWith .sealRecord s .invalidLayout :=
  failsWith_of_body rfl ((buildingOnly_iff _).mpr hm)
    (if_neg (mt (sealOk_iff_mayBeSealed _).mp h))

theorem exec_sealRecord_ok {s : State} (hm : s.blk.mode = .building) (h : MayBeSealed s.blk.buf) :
    exec .sealRecord s = .next { s with blk := { s.blk with mode := .sealed, err := .ok } } := by
  have hok := Block.command_ok (b := s.blk) (body := fun b =>
      if sealOk b.buf then .ok { b with mode := .sealed } else .error .invalidLayout)
    ((buildingOnly_iff _).mpr hm) (if_pos ((sealOk_iff_mayBeSealed _).mpr h))
  rw [exec, execSealRecord, State.command_eq, hok]
  rfl

/-! ### The Name step (R143) -/

theorem stepName_outOfRange {len : Nat} (bytes : Nat → Byte) (b : Memory) (h : 42 < len) :
    stepName len bytes b = .error .outOfRange := if_pos h

theorem stepName_ok {len : Nat} (bytes : Nat → Byte) (b : Memory) (h : len ≤ 42) :
    stepName len bytes b = .ok (b.fill 0 42 (paddedName len bytes)) := if_neg (by simpa using h)

/-! ### The Coordinates step (R144) -/

section Coordinates

variable {x y z : Int}

theorem stepCoords_outOfRange (b : Memory) (h : OutsideInt32 x ∨ OutsideInt32 y ∨ OutsideInt32 z) :
    stepCoords x y z b = .error .outOfRange := by
  have hv : ¬(inInt32 x && inInt32 y && inInt32 z) = true := by
    simp only [Bool.and_eq_true, inInt32_iff_not_outside]
    tauto
  simp [stepCoords, hv]

theorem stepCoords_ok (b : Memory) (hx : ¬OutsideInt32 x) (hy : ¬OutsideInt32 y)
    (hz : ¬OutsideInt32 z) :
    stepCoords x y z b = .ok (((b.writeBE32 42 (BitVec.ofInt 32 x)).writeBE32 46
      (BitVec.ofInt 32 y)).writeBE32 50 (BitVec.ofInt 32 z)) := by
  have hin {v : Int} (hv : ¬OutsideInt32 v) : inInt32 v = true := (inInt32_iff_not_outside v).mpr hv
  simp only [stepCoords, hin hx, hin hy, hin hz, Layout.xOff, Layout.yOff, Layout.zOff,
    cdcWr32_ok _ hx (by decide : 42 ≤ 60), cdcWr32_ok _ hy (by decide : 46 ≤ 60),
    cdcWr32_ok _ hz (by decide : 50 ≤ 60), Except.bind, Bool.and_self, Bool.not_true,
    Bool.false_eq_true, if_false]

end Coordinates

/-! ### The Type step (R155) -/

theorem isTypeCode_eq_false {v : Int} (h : v < 0 ∨ 2 < v) : isTypeCode v = false := by
  rw [← Bool.not_eq_true, isTypeCode_iff]
  omega

theorem stepType_outOfRange {v : Int} (b : Memory) (h : v < 0 ∨ 2 < v) :
    stepType v b = .error .outOfRange := by
  simp [stepType, isTypeCode_eq_false h]

/-- A type code in the Type bits lies in the mask. -/
theorem fitsMask_typeCode {v : Int} (h0 : 0 ≤ v) (h2 : v ≤ 2) :
    fitsMask Layout.typeMask Layout.typeShift v = true := by
  interval_cases v <;> decide

/-- A byte with its Type bits replaced, the others kept (R155). -/
def mergeType (old : Byte) (v : Int) : Byte :=
  (old &&& ~~~Layout.typeMask) ||| BitVec.ofNat 8 (v * 2 ^ Layout.typeShift).toNat

theorem stepType_ok {v : Int} (b : Memory) (h0 : 0 ≤ v) (h2 : v ≤ 2) :
    stepType v b = .ok (b.write 61 (mergeType (b.read 61) v)) := by
  simp only [stepType, (isTypeCode_iff v).mpr ⟨h0, h2⟩, Bool.not_true, Bool.false_eq_true, if_false]
  exact cdcSetmask_ok b (fitsMask_typeCode h0 h2) (by decide)

theorem getLsbD_typeMask (j : Nat) : Layout.typeMask.getLsbD j = true ↔ j = 6 ∨ j = 7 := by
  by_cases hj : j < 8
  · interval_cases j <;> decide
  · rw [BitVec.getLsbD_of_ge _ _ (by omega)]
    simp only [Bool.false_eq_true, false_iff]
    omega

section TypeBits

variable {v : Int}

theorem getLsbD_mergeType (h0 : 0 ≤ v) (h2 : v ≤ 2) (old : Byte) (j : Nat) :
    (mergeType old v).getLsbD j =
      if j = 6 ∨ j = 7 then (v * 2 ^ 6).toNat.testBit j else old.getLsbD j := by
  obtain ⟨-, h255, hmask⟩ := fitsMask_iff.mp (fitsMask_typeCode h0 h2)
  rw [mergeType, getLsbD_setmask (by omega) hmask]
  simp only [getLsbD_typeMask]
  rfl

theorem mergeType_value (h0 : 0 ≤ v) (h2 : v ≤ 2) (old : Byte) :
    (mergeType old v).extractLsb' 6 2 = BitVec.ofInt 2 v := by
  apply BitVec.eq_of_getLsbD_eq
  intro i hi
  rw [BitVec.getLsbD_extractLsb', decide_eq_true hi, Bool.true_and, getLsbD_mergeType h0 h2,
    if_pos (by omega)]
  interval_cases v <;> interval_cases i <;> decide

theorem mergeType_other (h0 : 0 ≤ v) (h2 : v ≤ 2) (old : Byte) :
    (mergeType old v).extractLsb' 0 6 = old.extractLsb' 0 6 := by
  apply BitVec.eq_of_getLsbD_eq
  intro i hi
  rw [BitVec.getLsbD_extractLsb', BitVec.getLsbD_extractLsb', getLsbD_mergeType h0 h2,
    if_neg (by omega)]

end TypeBits

/-! ### The buffer that a step leaves -/

theorem bytesKept_fill (s : State) (start n : Nat) (f : Nat → Byte) :
    BytesKept s (withBuf s (s.blk.buf.fill start n f)) start n := fun a ha => by
  rw [withBuf_buf, Memory.read_fill, if_neg (by omega)]

theorem Memory.read_writeBE32_other (m : Memory) {off a : Nat} (w : Word)
    (h : a < off ∨ off + 4 ≤ a) : (m.writeBE32 off w).read a = m.read a := by
  rw [Memory.read_writeBE32, if_neg (by omega), if_neg (by omega), if_neg (by omega),
    if_neg (by omega)]

/-- A word just written is held whatever the buffer was, so also after other writes of a command. -/
theorem holdsBigEndian_last_write (s : State) (m : Memory) (off : Nat) (x : DWord) :
    HoldsBigEndian (withBuf s (m.writeBE32 off (BitVec.ofInt 32 x.toInt))) off x :=
  holdsBigEndian_writeBE32 (withBuf s m) off x

/-- A word keeps its bytes when a later one is written past them. -/
theorem holdsBigEndian_of_later_write {s : State} {m : Memory} {off off' : Nat} {x : DWord}
    (w : Word) (hlt : off + 4 ≤ off') (h : HoldsBigEndian (withBuf s m) off x) :
    HoldsBigEndian (withBuf s (m.writeBE32 off' w)) off x := by
  have hkept (a : Nat) (ha : a < off') := m.read_writeBE32_other w (.inl ha)
  rw [HoldsBigEndian, withBuf_buf] at h ⊢
  rwa [hkept _ (by omega), hkept _ (by omega), hkept _ (by omega), hkept _ (by omega)]

end Sys2Proof.Machine
end

section
/-! The statements of 41_builder.md about BEGIN, SEAL, the configuration steps as commands, and the
immutability of a sealed record. -/

namespace Sys2Proof.Machine

open Sys2Proof.Claims

/-- Settles O46: of the effects of a step only BEGIN and reset leave SEALED or write BUF there, and
error entry outside a build writes ERR alone. -/
theorem sealedRecordIsImmutable : Obligations.SealedRecordIsImmutable := by
  intro s t hm h hreset hbegin
  cases stepEffect_of_step h with
  | nothing hp ht => simp [NextCommand, hp, ht, hm]
  | reset rest hp _ => exact absurd ⟨rest, hp⟩ hreset
  | read addr rest hp ht => simp [NextCommand, hp, ht, hm, afterRead, queued]
  | write addr d rest hp ha ht => simp [NextCommand, hp, ht, ha, hm, queued]
  | command w rest hp hc =>
    have hw : w ≠ 0x00000001 := fun hw => hbegin ⟨rest, hw ▸ hp⟩
    obtain ⟨e, rfl⟩ | ⟨v, rfl⟩ := cmdWrite_sealed (s := queued s rest) hc hm hw
    · have hfail : ((queued s rest).fail e).blk = { s.blk with err := e.code } :=
        Block.fail_not_building s.blk e (by rw [hm]; decide)
      rw [hfail]
      exact ⟨hm, rfl, fun _ _ => rfl⟩
    · exact ⟨hm, rfl, fun _ he => absurd rfl he⟩

/-- Settles O21: BEGIN is legal in every mode and has one spelling. -/
theorem beginStartsAFreshBuild : Obligations.BeginStartsAFreshBuild := by
  refine ⟨by decide, fun w hopc hw => ?_, fun s =>
    ⟨_, exec_beginBuild s, Memory.read_zeroed, rfl⟩⟩
  cases hd : decode w with
  | error r => exact ⟨r, rfl⟩
  | ok i => exact absurd (decode_beginOpcode hopc hd) hw

/-- Settles O22: the model's seal check is the statement's. -/
theorem sealChecksTheLayout : Obligations.SealChecksTheLayout :=
  ⟨by decide, fun _ => failsWith_of_not_building rfl, fun _ hm =>
    ⟨failsWith_sealRecord hm, exec_sealRecord_ok hm⟩⟩

/-- Settles O23: the length check, then the whole slot filled with the padded name. -/
theorem withNameWritesThePaddedName : Obligations.WithNameWritesThePaddedName := by
  refine ⟨fun _ => decode_withName, fun len s => failsWith_of_not_building rfl,
    fun len s hm => ⟨fun hlen => ?_, fun hlen => ?_⟩⟩
  · exact failsWith_of_write rfl hm (stepName_outOfRange _ _ hlen)
  · refine ⟨_, exec_eq_withBuf rfl hm (stepName_ok _ _ hlen), wroteBufAlone_withBuf _ _,
      bytesKept_fill _ _ _ _, fun k hk => ?_⟩
    rw [withBuf_buf, Memory.read_fill, if_pos (by omega), Nat.sub_zero]
    rfl

/-- Settles O24: all three range checks, then three big-endian words, none of which reaches into
another's bytes. -/
theorem withCoordsWritesThreeValues : Obligations.WithCoordsWritesThreeValues := by
  refine ⟨by decide, fun s => failsWith_of_not_building rfl,
    fun s hm => ⟨fun hv => ?_, fun hx hy hz => ?_⟩⟩
  · exact failsWith_of_write rfl hm (stepCoords_outOfRange _ hv)
  · refine ⟨_, exec_eq_withBuf rfl hm (stepCoords_ok _ hx hy hz), wroteBufAlone_withBuf _ _,
      holdsBigEndian_of_later_write _ (by decide) (holdsBigEndian_of_later_write _ (by decide)
        (holdsBigEndian_last_write _ _ _ _)),
      holdsBigEndian_of_later_write _ (by decide) (holdsBigEndian_last_write _ _ _ _),
      holdsBigEndian_last_write _ _ _ _, fun a ha => ?_⟩
    rw [withBuf_buf, Memory.read_writeBE32_other _ _ (by omega),
      Memory.read_writeBE32_other _ _ (by omega), Memory.read_writeBE32_other _ _ (by omega)]

/-- Settles O25: WITH.GOLD is by definition WR32 at offset 54, where the bounds check holds. -/
theorem withGoldWritesGold : Obligations.WithGoldWritesGold := by
  obtain ⟨-, hmode, hwr32⟩ := wr32WritesBigEndian
  refine ⟨by decide, hmode 54, fun s hm => ?_⟩
  obtain ⟨hrange, -, hok⟩ := hwr32 54 s hm
  exact ⟨hrange, fun hv => hok hv (by decide)⟩

/-- Settles O26: the two steps are by definition WR10 at offsets 58 and 60. -/
theorem withManaAndHealthWriteTenBits : Obligations.WithManaAndHealthWriteTenBits := by
  obtain ⟨-, hmode, hwr10⟩ := wr10WritesSplitValue
  simp only [Obligations.WithManaAndHealthWriteTenBits, List.forall_mem_cons]
  have hstep (off : Nat) (hoff : off ≤ 62) (s : State) (hm : s.blk.mode = .building) :=
    let ⟨hrange, _, hok⟩ := hwr10 off s hm
    And.intro hrange fun h0 h1023 => hok h0 h1023 hoff
  exact ⟨⟨by decide, hmode 58, hstep 58 (by decide)⟩,
    ⟨by decide, hmode 60, hstep 60 (by decide)⟩, nofun⟩

/-- Settles O27: the four steps are by definition WRNIB of one nibble of byte 62 or 63. -/
theorem nibbleStepsWriteOneNibble : Obligations.NibbleStepsWriteOneNibble := by
  obtain ⟨-, hmode, hwrnib⟩ := wrnibWritesOneNibble
  have hstep (off : Nat) (hi : Bool) (hoff : off ≤ 63) (s : State) (hm : s.blk.mode = .building) :=
    let ⟨hrange, _, hok⟩ := hwrnib off hi s hm
    And.intro hrange fun h0 h15 => hok h0 h15 hoff
  simp only [Obligations.NibbleStepsWriteOneNibble, List.forall_mem_cons]
  exact ⟨⟨by decide, hmode 62 true, hstep 62 true (by decide)⟩,
    ⟨by decide, hmode 62 false, hstep 62 false (by decide)⟩,
    ⟨by decide, hmode 63 true, hstep 63 true (by decide)⟩,
    ⟨by decide, hmode 63 false, hstep 63 false (by decide)⟩, nofun⟩

/-- Settles O28: the three steps are by definition SETBIT in byte 61. -/
theorem flagStepsSetOneBit : Obligations.FlagStepsSetOneBit := by
  obtain ⟨-, hmode, hsetbit⟩ := setbitSetsOneBit
  have hstep (i : Nat) (hi : i < 8) (s : State) (hm : s.blk.mode = .building) :=
    (hsetbit 61 i s hi hm).2 (by decide)
  simp only [Obligations.FlagStepsSetOneBit, List.forall_mem_cons]
  exact ⟨⟨by decide, hmode 61 0, hstep 0 (by decide)⟩, ⟨by decide, hmode 61 1, hstep 1 (by decide)⟩,
    ⟨by decide, hmode 61 2, hstep 2 (by decide)⟩, nofun⟩

/-- Settles O29: the type codes are the values 0..2, and they take the Type bits of byte 61 alone. -/
theorem withTypeWritesTwoBits : Obligations.WithTypeWritesTwoBits := by
  refine ⟨by decide, fun s => failsWith_of_not_building rfl,
    fun s hm => ⟨fun h0 h1 h2 => ?_, fun hv => ?_⟩⟩
  · exact failsWith_of_write rfl hm (stepType_outOfRange _ (by rw [Block.sOPA]; omega))
  · have h0 : 0 ≤ s.blk.sOPA := by rw [Block.sOPA]; omega
    have h2 : s.blk.sOPA ≤ 2 := by rw [Block.sOPA]; omega
    refine ⟨_, exec_eq_withBuf rfl hm (stepType_ok _ h0 h2), wroteBufAlone_withBuf _ _,
      bytesKept_write _ _ _, ?_, ?_⟩
    · rw [withBuf_buf, Memory.read_write_same, mergeType_value h0 h2,
        ← extractLsb'_ofInt_toInt s.blk.opa (by decide) (le_refl 2), BitVec.extractLsb'_eq_self]
      rfl
    · rw [withBuf_buf, Memory.read_write_same, mergeType_other h0 h2]

end Sys2Proof.Machine
end

section
/-! SUPPORT. Writes of a set of bits: each primitive keeps the bits outside its field and writes those
in it whatever they were, so writes of disjoint fields commute and the last write of a field wins
(20_memory.md R58, 40_codec.md R111 and R112). -/

namespace Sys2Proof.Machine

open Sys2Proof.Claims

/-- Canonical buffers with the same bits are the same buffer. -/
theorem Memory.ext_of_bits {size : Nat} {m n : Memory} (hm : m.wf size = true)
    (hn : n.wf size = true) (h : ∀ a i, (m.read a).getLsbD i = (n.read a).getLsbD i) : m = n :=
  Memory.ext_of_wf hm hn fun a => BitVec.eq_of_getLsbD_eq fun i _ => h a i

/-- A write of a set of bits: it keeps the bits outside the set, and what it leaves in the set does
not depend on the buffer before. -/
structure WritesBits (own : Nat → Nat → Prop) (f : Memory → Memory) : Prop where
  wf : ∀ b, b.wf 64 = true → (f b).wf 64 = true
  kept : ∀ b a i, ¬own a i → ((f b).read a).getLsbD i = (b.read a).getLsbD i
  fixed : ∀ b b' a i, own a i → ((f b).read a).getLsbD i = ((f b').read a).getLsbD i

namespace WritesBits

variable {own own' : Nat → Nat → Prop} {f g : Memory → Memory}

/-! ### Two writes after one another -/

/-- Writes of disjoint sets of bits commute. -/
theorem comm (hf : WritesBits own f) (hg : WritesBits own' g) (hd : ∀ a i, own a i → ¬own' a i)
    {b : Memory} (hb : b.wf 64 = true) : g (f b) = f (g b) := by
  refine Memory.ext_of_bits (hg.wf _ (hf.wf _ hb)) (hf.wf _ (hg.wf _ hb)) fun a i => ?_
  by_cases h : own a i
  · rw [hg.kept _ _ _ (hd a i h), hf.fixed (g b) b _ _ h]
  · rw [hf.kept _ _ _ h]
    by_cases h' : own' a i
    · exact hg.fixed _ _ _ _ h'
    · rw [hg.kept _ _ _ h', hg.kept _ _ _ h', hf.kept _ _ _ h]

/-- A second write of the same bits leaves what it alone would have left. -/
theorem overwrite (hf : WritesBits own f) (hg : WritesBits own g) {b : Memory}
    (hb : b.wf 64 = true) : g (f b) = g b := by
  refine Memory.ext_of_bits (hg.wf _ (hf.wf _ hb)) (hg.wf _ hb) fun a i => ?_
  by_cases h : own a i
  · exact hg.fixed _ _ _ _ h
  · rw [hg.kept _ _ _ h, hg.kept _ _ _ h, hf.kept _ _ _ h]

theorem comp (hf : WritesBits own f) (hg : WritesBits own' g) :
    WritesBits (fun a i => own a i ∨ own' a i) (fun b => g (f b)) where
  wf b hb := hg.wf _ (hf.wf _ hb)
  kept b a i h := by
    obtain ⟨h, h'⟩ := not_or.mp h
    rw [hg.kept _ _ _ h', hf.kept _ _ _ h]
  fixed b b' a i h := by
    by_cases h' : own' a i
    · exact hg.fixed _ _ _ _ h'
    · rw [hg.kept _ _ _ h', hg.kept _ _ _ h', hf.fixed b b' _ _ (h.resolve_right h')]

theorem congr (hf : WritesBits own f) (h : ∀ a i, own' a i ↔ own a i) : WritesBits own' f := by
  obtain rfl : own' = own := funext₂ fun a i => propext (h a i)
  exact hf

/-! ### The writes of the primitives -/

/-- A byte rewritten in some of its bits. -/
theorem update {p : Nat → Prop} {off : Nat} {u : Byte → Byte} (hoff : off < 64)
    (kept : ∀ x, ∀ i < 8, ¬p i → (u x).getLsbD i = x.getLsbD i)
    (fixed : ∀ x y, ∀ i < 8, p i → (u x).getLsbD i = (u y).getLsbD i) :
    WritesBits (fun a i => a = off ∧ p i) (fun b => b.write off (u (b.read off))) where
  wf b hb := Memory.wf_write _ hoff hb
  kept b a i h := by
    rw [Memory.read_write]
    split
    next ha =>
      subst ha
      by_cases hi : i < 8
      · exact kept _ i hi fun hp => h ⟨rfl, hp⟩
      · rw [BitVec.getLsbD_of_ge _ _ (by omega), BitVec.getLsbD_of_ge _ _ (by omega)]
    next => rfl
  fixed b b' a i h := by
    obtain ⟨rfl, hp⟩ := h
    rw [Memory.read_write_same, Memory.read_write_same]
    by_cases hi : i < 8
    · exact fixed _ _ i hi hp
    · rw [BitVec.getLsbD_of_ge _ _ (by omega), BitVec.getLsbD_of_ge _ _ (by omega)]

theorem byte {off : Nat} (hoff : off < 64) (x : Byte) :
    WritesBits (fun a _ => a = off) (fun b => b.write off x) :=
  (update (p := fun _ => True) (u := fun _ => x) hoff (fun _ _ _ h => absurd trivial h)
    fun _ _ _ _ _ => rfl).congr fun _ _ => ⟨fun h => ⟨h, trivial⟩, And.left⟩

theorem writeBE32 {off : Nat} (hoff : off ≤ 60) (w : Word) :
    WritesBits (fun a _ => off ≤ a ∧ a < off + 4) (fun b => b.writeBE32 off w) :=
  ((((byte (by omega) _).comp (byte (by omega) _)).comp (byte (by omega) _)).comp
    (byte (by omega) _)).congr fun a _ => by omega

theorem fill {start n : Nat} (h : start + n ≤ 64) (u : Nat → Byte) :
    WritesBits (fun a _ => start ≤ a ∧ a < start + n) (fun b => b.fill start n u) := by
  induction n with
  | zero =>
    exact ⟨fun _ => id, fun _ _ _ _ => rfl, fun _ _ a _ h => by omega⟩
  | succ n ih =>
    exact ((ih (by omega)).comp (byte (by omega) (u n))).congr fun a _ => by omega

theorem mergeNib {off : Nat} (hoff : off ≤ 63) (hi : Bool) (v : BitVec 4) :
    WritesBits (fun a i => a = off ∧ if hi then 4 ≤ i else i ≤ 3)
      (fun b => b.write off (Machine.mergeNib (b.read off) hi v)) := by
  refine update (u := (Machine.mergeNib · hi v)) (by omega) (fun x i hi8 h => ?_)
    (fun x y i hi8 h => ?_)
  all_goals
    cases hi <;> interval_cases i <;> simp_all [Machine.mergeNib]

theorem merge10 {off : Nat} (hoff : off ≤ 62) (x : Byte) (v : BitVec 10) :
    WritesBits (fun a i => a = off ∨ (a = off + 1 ∧ (i = 4 ∨ i = 5)))
      (fun b => (b.write off x).write (off + 1) (Machine.merge10 (b.read (off + 1)) v)) := by
  have hsecond : WritesBits (fun a i => a = off + 1 ∧ (i = 4 ∨ i = 5))
      (fun b => b.write (off + 1) (Machine.merge10 (b.read (off + 1)) v)) := by
    refine update (u := (Machine.merge10 · v)) (by omega) (fun x i hi8 h => ?_)
      (fun x y i hi8 h => ?_)
    all_goals
      interval_cases i <;> simp_all [Machine.merge10]
  simpa only [Memory.read_write_other _ _ (Nat.succ_ne_self off)] using
    (byte (by omega : off < 64) x).comp hsecond

theorem setbit {off i : Nat} (hoff : off ≤ 63) (hi : i < 8) :
    WritesBits (fun a j => a = off ∧ j = i)
      (fun b => b.write off (b.read off ||| ((1 : Byte) <<< i))) := by
  refine update (u := (· ||| ((1 : Byte) <<< i))) (by omega) (fun x j _ h => ?_)
    (fun x y j _ h => ?_)
  · rw [getLsbD_or_one_shiftLeft _ hi, decide_eq_false h, Bool.or_false]
  · simp only [getLsbD_or_one_shiftLeft _ hi, decide_eq_true h, Bool.or_true]

theorem mergeType {v : Int} (h0 : 0 ≤ v) (h2 : v ≤ 2) :
    WritesBits (fun a i => a = 61 ∧ (i = 6 ∨ i = 7))
      (fun b => b.write 61 (Machine.mergeType (b.read 61) v)) := by
  refine update (u := (Machine.mergeType · v)) (by decide) (fun x i _ h => ?_) (fun x y i _ h => ?_)
  · rw [getLsbD_mergeType h0 h2, if_neg h]
  · rw [getLsbD_mergeType h0 h2, getLsbD_mergeType h0 h2, if_pos h, if_pos h]

end WritesBits

end Sys2Proof.Machine
end

section
/-! SUPPORT. Configuration steps on a buffer: what each can do, which field owns a bit, and the seal
conditions, which every step keeps (41_builder.md R142 to R155, R160, 20_memory.md R57, R58). -/

namespace Sys2Proof.Machine

open Sys2Proof.Claims

/-! ### What a step can do -/

/-- What a step can do, whatever the buffer: it is out of range, or it writes its field's bits. -/
inductive StepOutcome (c : ConfigStep) : Prop where
  | rejected (h : ∀ b, c.apply b = .error .outOfRange)
  | accepted (f : Memory → Memory) (hf : WritesBits (Owns c.field) f)
      (h : ∀ b, c.apply b = .ok (f b))

section Cases

variable {c : ConfigStep} {v : Int} {off : Nat}

theorem stepOutcome_of_cdcWr32 (hoff : off ≤ 60) (hc : ∀ b, c.apply b = cdcWr32 b off v)
    (hown : ∀ a i, Owns c.field a i ↔ off ≤ a ∧ a < off + 4) : StepOutcome c := by
  by_cases hv : OutsideInt32 v
  · exact .rejected fun b => (hc b).trans (cdcWr32_outOfRange hv)
  · exact .accepted _ ((WritesBits.writeBE32 hoff _).congr hown)
      fun b => (hc b).trans (cdcWr32_ok b hv hoff)

theorem stepOutcome_of_cdcWr10 (hoff : off ≤ 62) (hc : ∀ b, c.apply b = cdcWr10 b off v)
    (hown : ∀ a i, Owns c.field a i ↔ a = off ∨ (a = off + 1 ∧ (i = 4 ∨ i = 5))) :
    StepOutcome c := by
  by_cases hv : 0 ≤ v ∧ v ≤ 1023
  · exact .accepted _ ((WritesBits.merge10 hoff _ _).congr hown)
      fun b => (hc b).trans (cdcWr10_ok b hv.1 hv.2 hoff)
  · exact .rejected fun b => (hc b).trans (cdcWr10_outOfRange (by omega))

theorem stepOutcome_of_cdcWrnib {hi : Bool} (hoff : off ≤ 63)
    (hc : ∀ b, c.apply b = cdcWrnib b off v hi)
    (hown : ∀ a i, Owns c.field a i ↔ a = off ∧ if hi then 4 ≤ i else i ≤ 3) : StepOutcome c := by
  by_cases hv : 0 ≤ v ∧ v ≤ 15
  · exact .accepted _ ((WritesBits.mergeNib hoff hi _).congr hown)
      fun b => (hc b).trans (cdcWrnib_ok b hi hv.1 hv.2 hoff)
  · exact .rejected fun b => (hc b).trans (cdcWrnib_outOfRange (by omega))

theorem stepOutcome_of_cdcSetbit {i : Nat} (hoff : off ≤ 63) (hi : i < 8)
    (hc : ∀ b, c.apply b = cdcSetbit b off i)
    (hown : ∀ a j, Owns c.field a j ↔ a = off ∧ j = i) : StepOutcome c :=
  .accepted _ ((WritesBits.setbit hoff hi).congr hown) fun b => (hc b).trans (cdcSetbit_ok b i hoff)

end Cases

theorem stepOutcome_name (bytes : List Byte) : StepOutcome (.name bytes) := by
  by_cases hlen : bytes.length ≤ 42
  · exact .accepted _ ((WritesBits.fill (by decide : 0 + 42 ≤ 64) _).congr fun a _ => by
      rw [ConfigStep.field, Owns]; omega) fun b => stepName_ok _ b hlen
  · exact .rejected fun b => stepName_outOfRange _ b (by omega)

theorem stepOutcome_coords (x y z : Int) : StepOutcome (.coords x y z) := by
  by_cases hv : OutsideInt32 x ∨ OutsideInt32 y ∨ OutsideInt32 z
  · exact .rejected fun b => stepCoords_outOfRange b hv
  · obtain ⟨hx, hy, hz⟩ : ¬OutsideInt32 x ∧ ¬OutsideInt32 y ∧ ¬OutsideInt32 z := by tauto
    refine .accepted _ ((((WritesBits.writeBE32 (by decide) _).comp
      (WritesBits.writeBE32 (by decide) _)).comp (WritesBits.writeBE32 (by decide) _)).congr
        fun a _ => ?_) fun b => stepCoords_ok b hx hy hz
    rw [ConfigStep.field, Owns]
    omega

theorem stepOutcome_type (v : Int) : StepOutcome (.type v) := by
  by_cases hv : 0 ≤ v ∧ v ≤ 2
  · exact .accepted _ (WritesBits.mergeType hv.1 hv.2) fun b => stepType_ok b hv.1 hv.2
  · exact .rejected fun b => stepType_outOfRange b (by omega)

/-- Whether a step is accepted does not depend on the buffer, and then it writes its field (R142). -/
theorem stepOutcome (c : ConfigStep) : StepOutcome c := by
  cases c with
  | name bytes => exact stepOutcome_name bytes
  | coords x y z => exact stepOutcome_coords x y z
  | gold =>
    refine stepOutcome_of_cdcWr32 (off := 54) (by decide) (fun _ => rfl) fun a _ => ?_
    rw [ConfigStep.field, Owns]
    omega
  | mana => exact stepOutcome_of_cdcWr10 (by decide) (fun _ => rfl) fun _ _ => .rfl
  | health => exact stepOutcome_of_cdcWr10 (by decide) (fun _ => rfl) fun _ _ => .rfl
  | respect | strength | experience | level =>
    exact stepOutcome_of_cdcWrnib (by decide) (fun _ => rfl) fun _ _ => .rfl
  | house | gun | family =>
    exact stepOutcome_of_cdcSetbit (by decide) (by decide) (fun _ => rfl) fun _ _ => .rfl
  | type v => exact stepOutcome_type v

/-! ### The owner of a bit (R57, R58) -/

/-- The one field that can own bit `i` of byte `a`. -/
def ownerOf (a i : Nat) : Field :=
  if a ≤ 41 then .name
  else if a ≤ 53 then .coords
  else if a ≤ 57 then .gold
  else if a ≤ 59 then .mana
  else if a = 60 ∨ (a = 61 ∧ (i = 4 ∨ i = 5)) then .health
  else if a = 61 then
    if i = 0 then .house else if i = 1 then .gun else if i = 2 then .family else .type
  else if a = 62 then if i ≤ 3 then .strength else .respect
  else if i ≤ 3 then .level else .experience

theorem ownerOf_eq {f : Field} {a i : Nat} (h : Owns f a i) : ownerOf a i = f := by
  cases f <;> grind [Owns, ownerOf]

/-- Different fields own different bits. -/
theorem owns_disjoint {f g : Field} (hfg : f ≠ g) (a i : Nat) (hf : Owns f a i) : ¬Owns g a i :=
  fun hg => hfg ((ownerOf_eq hf).symm.trans (ownerOf_eq hg))

theorem not_owns_unused (f : Field) : ¬Owns f 61 3 := by
  cases f <;> simp [Owns]

theorem not_owns_reserved (f : Field) {i : Nat} (h4 : i ≠ 4) (h5 : i ≠ 5) : ¬Owns f 59 i := by
  cases f <;> simp [Owns, h4, h5]

/-! ### A step keeps the seal conditions (R160) -/

section Apply

variable {c : ConfigStep} {b b' : Memory}

theorem ConfigStep.apply_error {e : CmdError} (h : c.apply b = .error e) : e = .outOfRange := by
  cases stepOutcome c with
  | rejected hr => exact (Except.error.inj ((hr b).symm.trans h)).symm
  | accepted f _ hok => exact nomatch (hok b).symm.trans h

theorem ConfigStep.apply_kept (h : c.apply b = .ok b') {a i : Nat} (hn : ¬Owns c.field a i) :
    (b'.read a).getLsbD i = (b.read a).getLsbD i := by
  cases stepOutcome c with
  | rejected hr => exact nomatch (hr b).symm.trans h
  | accepted f hf hok =>
    obtain rfl := Except.ok.inj ((hok b).symm.trans h)
    exact hf.kept b a i hn

/-- The Type step accepts no value that sets both Type bits. -/
theorem stepType_typeBits {v : Int} (h : stepType v b = .ok b') :
    ¬((b'.read 61).getLsbD 6 = true ∧ (b'.read 61).getLsbD 7 = true) := by
  by_cases hv : 0 ≤ v ∧ v ≤ 2
  · obtain ⟨h0, h2⟩ := hv
    obtain rfl := Except.ok.inj ((stepType_ok b h0 h2).symm.trans h)
    rw [← typeBits_eq_three_iff, Memory.read_write_same, mergeType_value h0 h2]
    interval_cases v <;> decide
  · exact nomatch (stepType_outOfRange b (by omega)).symm.trans h

theorem ConfigStep.apply_mayBeSealed (h : c.apply b = .ok b') (hb : MayBeSealed b) :
    MayBeSealed b' := by
  rw [mayBeSealed_iff] at hb ⊢
  obtain ⟨hunused, hreserved, htype⟩ := hb
  refine ⟨?_, fun i h4 h5 => ?_, ?_⟩
  · rw [apply_kept h (not_owns_unused _), hunused]
  · rw [apply_kept h (not_owns_reserved _ h4 h5), hreserved i h4 h5]
  · by_cases hc : c.field = .type
    · cases c with
      | type v => exact stepType_typeBits h
      | _ => exact nomatch hc
    · have hn (i : Nat) (hi : ownerOf 61 i = .type) : ¬Owns c.field 61 i :=
        fun ho => hc ((ownerOf_eq ho).symm.trans hi)
      rwa [apply_kept h (hn 6 rfl), apply_kept h (hn 7 rfl)]

end Apply

theorem mayBeSealed_zeroed : MayBeSealed Memory.zeroed := by
  simp [mayBeSealed_iff]

theorem applySteps_mayBeSealed {steps : List ConfigStep} {b b' : Memory}
    (h : applySteps steps b = .ok b') (hb : MayBeSealed b) : MayBeSealed b' := by
  induction steps generalizing b with
  | nil => exact Except.ok.inj h ▸ hb
  | cons c cs ih =>
    rw [applySteps] at h
    split at h
    next b₁ hc => exact ih h (ConfigStep.apply_mayBeSealed hc hb)
    next => exact nomatch h

theorem applySteps_error {steps : List ConfigStep} {b : Memory} {e : CmdError}
    (h : applySteps steps b = .error e) : e = .outOfRange := by
  induction steps generalizing b with
  | nil => exact nomatch h
  | cons c cs ih =>
    rw [applySteps] at h
    split at h
    next => exact ih h
    next hc => exact ConfigStep.apply_error (Except.error.inj h ▸ hc)

/-- The seal check of a build never fails, so the build is what its steps give. -/
theorem build_eq_applySteps (steps : List ConfigStep) :
    build steps = applySteps steps Memory.zeroed := by
  rw [build]
  split
  next b h =>
    rw [h, if_pos ((sealOk_iff_mayBeSealed b).mpr (applySteps_mayBeSealed h mayBeSealed_zeroed))]
  next e h => exact h.symm

/-- Type bits other than 3 are a type code. -/
theorem typeCode_le_of_mayBeSealed {b : Memory} (h : MayBeSealed b) :
    (b.read 61).toNat / 64 ≤ 2 := by
  obtain ⟨-, -, htype⟩ := (mayBeSealed_iff b).mp h
  rw [← typeBits_eq_three_iff, ← BitVec.toNat_inj, BitVec.extractLsb'_toNat,
    Nat.shiftRight_eq_div_pow] at htype
  have hcode : (b.read 61).toNat / 64 % 4 ≠ 3 := htype
  have hlt := (b.read 61).isLt
  omega

end Sys2Proof.Machine
end

section
/-! The statements of 41_builder.md about builds: commutation, last value wins, step-only builds. -/

namespace Sys2Proof.Machine

open Sys2Proof.Claims

/-- Settles O54: whether a step is out of range does not depend on the buffer, and accepted steps
write disjoint bits. -/
theorem stepsOfDisjointFieldsCommute : Obligations.StepsOfDisjointFieldsCommute := by
  intro c d b hb hne
  refine ⟨?_, fun e h => ?_⟩
  · cases stepOutcome c with
    | rejected hc =>
      cases stepOutcome d with
      | rejected hd => rw [hc, hd]; rfl
      | accepted g _ hd => rw [hc, hd]; exact (hc _).symm
    | accepted f hf hc =>
      cases stepOutcome d with
      | rejected hd => rw [hc, hd]; exact hd _
      | accepted g hg hd =>
        rw [hc, hd]
        exact (hd _).trans ((congrArg _ (hf.comm hg (owns_disjoint hne) hb)).trans (hc _).symm)
  · cases hc : c.apply b with
    | error e' =>
      rw [hc] at h
      exact ConfigStep.apply_error (Except.error.inj h ▸ hc)
    | ok b' =>
      rw [hc] at h
      exact ConfigStep.apply_error h

/-- Settles O55: the second step writes every bit that the first one did. -/
theorem lastStepOfAFieldWins : Obligations.LastStepOfAFieldWins := by
  refine fun c d b b' hb heq h => ⟨?_, fun a i => ConfigStep.apply_kept h⟩
  cases stepOutcome c with
  | rejected hc => exact nomatch (hc b).symm.trans h
  | accepted f hf hc =>
    obtain rfl := Except.ok.inj ((hc b).symm.trans h)
    cases stepOutcome d with
    | rejected hd => rw [hd, hd]
    | accepted g hg hd =>
      rw [← heq] at hg
      rw [hd, hd, hf.overwrite hg hb]

/-- Settles O56, by the seal conditions as an invariant of the steps from the zeroed buffer on. -/
theorem stepOnlyBuildsNeverFailSeal : Obligations.StepOnlyBuildsNeverFailSeal := by
  intro steps
  rw [build_eq_applySteps]
  exact ⟨fun e => applySteps_error,
    fun b h => ⟨applySteps_mayBeSealed h mayBeSealed_zeroed, h⟩,
    fun b h => typeCode_le_of_mayBeSealed (applySteps_mayBeSealed h mayBeSealed_zeroed)⟩

end Sys2Proof.Machine
end

section
/-! SUPPORT. The accessors: each is a read of BUF that puts its value in RES and is legal in SEALED only
(42_accessors.md R170), the scan for the name's length (R171) and the Type code (R185). -/

namespace Sys2Proof.Machine

open Sys2Proof.Claims

/-! ### An accessor and its read -/

/-- The command puts in RES what the read gives of BUF, in SEALED only. -/
def IsAccessor (i : Instr) (r : Memory → Except CmdError Int) : Prop :=
  ∀ s : State, exec i s = s.command sealedOnly fun b => b.putRes (r b.buf)

namespace IsAccessor

variable {i : Instr} {r : Memory → Except CmdError Int} {s : State} {v : Int}

theorem illegalOutsideSealed (h : IsAccessor i r) : IllegalOutsideSealed i :=
  fun s hm => failsWith_of_not_sealed (h s) hm

theorem exec_eq (h : IsAccessor i r) (hm : s.blk.mode = .sealed) (hr : r s.blk.buf = .ok v) :
    exec i s = .next (withResult s (BitVec.ofInt 64 v)) :=
  exec_eq_withResult (r := fun b => r b.buf) (h s) ((sealedOnly_iff _).mpr hm) hr

theorem reads {b : Memory} (h : IsAccessor i r) (hr : r b = .ok v) : Reads b i v :=
  fun _ hm hb => h.exec_eq hm (hb ▸ hr)

/-- A read that gives every record that may be sealed a value within 32-bit bounds gives it in RES of
every sealed state that meets the invariant, as a signed 64-bit value. -/
theorem total {lo hi : Int} (h : IsAccessor i r) (hdom : -2147483648 ≤ lo ∧ hi ≤ 2147483647)
    (hr : ∀ b, MayBeSealed b → ∃ v, r b = .ok v ∧ lo ≤ v ∧ v ≤ hi) (s : State) (hinv : s.Inv)
    (hm : s.blk.mode = .sealed) :
    ∃ x : DWord, exec i s = .next (withResult s x) ∧ lo ≤ x.toInt ∧ x.toInt ≤ hi := by
  obtain ⟨-, -, -, hseal⟩ := hinv
  obtain ⟨v, hv, hlo, hhi⟩ := hr s.blk.buf ((sealOk_iff_mayBeSealed _).mp (hseal hm))
  refine ⟨_, h.exec_eq hm hv, ?_⟩
  rw [BitVec.toInt_ofInt_eq_self (by decide) (by omega) (by omega)]
  exact ⟨hlo, hhi⟩

theorem getName : IsAccessor .getName fun b => .ok (nameLength b : Int) := fun _ => rfl
theorem getX : IsAccessor .getX (cdcRd32 · 42) := fun _ => rfl
theorem getY : IsAccessor .getY (cdcRd32 · 46) := fun _ => rfl
theorem getZ : IsAccessor .getZ (cdcRd32 · 50) := fun _ => rfl
theorem getGold : IsAccessor .getGold (cdcRd32 · 54) := fun _ => rfl
theorem getMana : IsAccessor .getMana (cdcRd10 · 58) := fun _ => rfl
theorem getHealth : IsAccessor .getHealth (cdcRd10 · 60) := fun _ => rfl
theorem getRespect : IsAccessor .getRespect (cdcRdnib · 62 true) := fun _ => rfl
theorem getStrength : IsAccessor .getStrength (cdcRdnib · 62 false) := fun _ => rfl
theorem getExperience : IsAccessor .getExperience (cdcRdnib · 63 true) := fun _ => rfl
theorem getLevel : IsAccessor .getLevel (cdcRdnib · 63 false) := fun _ => rfl
theorem getHouse : IsAccessor .getHouse (cdcGetbit · 61 0) := fun _ => rfl
theorem getGun : IsAccessor .getGun (cdcGetbit · 61 1) := fun _ => rfl
theorem getFamily : IsAccessor .getFamily (cdcGetbit · 61 2) := fun _ => rfl
theorem getType : IsAccessor .getType fun b => .ok (typeCode b : Int) := fun _ => rfl

end IsAccessor

/-! ### The name's length (R171) -/

/-- The scan of `n` bytes from `k` on stops at the first zero byte, or past them. -/
theorem firstZero_spec (b : Memory) (k n : Nat) :
    k ≤ firstZero b k n ∧ firstZero b k n ≤ k + n ∧
    (∀ j, k ≤ j → j < firstZero b k n → b.read j ≠ 0) ∧
    (firstZero b k n < k + n → b.read (firstZero b k n) = 0) := by
  induction n generalizing k with
  | zero =>
    rw [firstZero]
    exact ⟨le_refl k, le_refl k, fun j hk hj => by omega, fun h => by omega⟩
  | succ n ih =>
    rw [firstZero]
    split
    next h0 => exact ⟨le_refl k, by omega, fun j hk hj => by omega, fun _ => h0⟩
    next h0 =>
      obtain ⟨hk, hn, hbefore, hat⟩ := ih (k + 1)
      refine ⟨by omega, by omega, fun j hkj hj => ?_, fun h => hat (by omega)⟩
      by_cases hjk : j = k
      · exact hjk ▸ h0
      · exact hbefore j (by omega) hj

theorem nameLength_spec (b : Memory) : NameLength b (nameLength b) := by
  obtain ⟨-, hle, hbefore, hat⟩ := firstZero_spec b 0 42
  exact ⟨hle, fun k hk => hbefore k (Nat.zero_le k) hk, hat⟩

/-- A buffer has one name length. -/
theorem nameLength_unique {b : Memory} {l l' : Nat} (h : NameLength b l) (h' : NameLength b l') :
    l = l' := by
  obtain ⟨hle, hbefore, hat⟩ := h
  obtain ⟨hle', hbefore', hat'⟩ := h'
  obtain hlt | heq | hgt := Nat.lt_trichotomy l l'
  · exact absurd (hat (by omega)) (hbefore' l hlt)
  · exact heq
  · exact absurd (hat' (by omega)) (hbefore l' hgt)

/-! ### The Type code (R185) -/

theorem typeCode_eq_div (b : Memory) : typeCode b = (b.read 61).toNat / 64 := by
  have htype : (b.read 61 &&& Layout.typeMask) >>> 6 = b.read 61 >>> 6 := by
    apply BitVec.eq_of_getLsbD_eq
    intro i hi
    interval_cases i <;> simp [Layout.typeMask]
  exact (congrArg BitVec.toNat htype).trans (Nat.shiftRight_eq_div_pow _ 6)

theorem typeCode_eq_extractLsb' (b : Memory) :
    typeCode b = ((b.read 61).extractLsb' 6 2).toNat := by
  have hlt := (b.read 61).isLt
  rw [typeCode_eq_div, BitVec.extractLsb'_toNat, Nat.shiftRight_eq_div_pow]
  omega

/-! ### The bounds of a read -/

section Bounds

variable {b : Memory} {off : Nat}

theorem nameLength_total (b : Memory) :
    ∃ v, Except.ok (ε := CmdError) (nameLength b : Int) = .ok v ∧ 0 ≤ v ∧ v ≤ 42 := by
  obtain ⟨hle, -, -⟩ := nameLength_spec b
  exact ⟨_, rfl, by omega, by omega⟩

theorem cdcRd32_total (hoff : off ≤ 60) :
    ∃ v, cdcRd32 b off = .ok v ∧ -2147483648 ≤ v ∧ v ≤ 2147483647 := by
  have hlo := BitVec.le_toInt (b.readBE32 off)
  have hhi := BitVec.toInt_lt (x := b.readBE32 off)
  exact ⟨_, cdcRd32_ok hoff, by omega, by omega⟩

theorem cdcRd10_total (hoff : off ≤ 62) : ∃ v, cdcRd10 b off = .ok v ∧ 0 ≤ v ∧ v ≤ 1023 := by
  have hlt := (value10 (b.read off) (b.read (off + 1))).isLt
  exact ⟨_, cdcRd10_ok hoff, by omega, by omega⟩

theorem cdcRdnib_total (hoff : off ≤ 63) (hi : Bool) :
    ∃ v, cdcRdnib b off hi = .ok v ∧ 0 ≤ v ∧ v ≤ 15 := by
  have hlt := ((b.read off).extractLsb' (if hi then 4 else 0) 4).isLt
  exact ⟨_, cdcRdnib_ok hoff hi, by omega, by omega⟩

theorem cdcGetbit_total (hoff : off ≤ 63) (i : Nat) :
    ∃ v, cdcGetbit b off i = .ok v ∧ 0 ≤ v ∧ v ≤ 1 := by
  have hle := Bool.toNat_le ((b.read off).getLsbD i)
  exact ⟨_, cdcGetbit_ok hoff i, by omega, by omega⟩

theorem typeCode_total (h : MayBeSealed b) :
    ∃ v, Except.ok (ε := CmdError) (typeCode b : Int) = .ok v ∧ 0 ≤ v ∧ v ≤ 2 := by
  have hle := typeCode_le_of_mayBeSealed h
  rw [← typeCode_eq_div] at hle
  exact ⟨_, rfl, by omega, by omega⟩

end Bounds

end Sys2Proof.Machine
end

section
/-! The statements of 42_accessors.md about each accessor as a command, and their domains. -/

namespace Sys2Proof.Machine

open Sys2Proof.Claims

/-- Settles O30: the model's scan finds the one length that fits R171. -/
theorem getNameGivesTheNameLength : Obligations.GetNameGivesTheNameLength :=
  ⟨by decide, IsAccessor.getName.illegalOutsideSealed, fun s hm =>
    ⟨nameLength s.blk.buf, nameLength_spec _, IsAccessor.getName.exec_eq hm rfl⟩⟩

/-- Settles O31: the four accessors are RD32 of their field, in SEALED only. -/
theorem coordinateAndGoldAccessorsSignExtend :
    Obligations.CoordinateAndGoldAccessorsSignExtend := by
  have hread {i : Instr} {off : Nat} (h : IsAccessor i (cdcRd32 · off)) (hoff : off ≤ 60) :
      IllegalOutsideSealed i ∧ ∀ s : State, s.blk.mode = .sealed →
        exec i s = .next (withResult s (value32 s off)) :=
    ⟨h.illegalOutsideSealed, fun s hm => ofInt_readBE32 s off ▸ h.exec_eq hm (cdcRd32_ok hoff)⟩
  simp only [Obligations.CoordinateAndGoldAccessorsSignExtend, List.forall_mem_cons]
  exact ⟨⟨by decide, hread .getX (by decide)⟩, ⟨by decide, hread .getY (by decide)⟩,
    ⟨by decide, hread .getZ (by decide)⟩, ⟨by decide, hread .getGold (by decide)⟩, nofun⟩

/-- Settles O32: the two accessors are RD10 of their field, in SEALED only. -/
theorem manaAndHealthAccessorsReadTenBits : Obligations.ManaAndHealthAccessorsReadTenBits := by
  have hread {i : Instr} {off : Nat} (h : IsAccessor i (cdcRd10 · off)) (hoff : off ≤ 62) :
      IllegalOutsideSealed i ∧ ∀ s : State, s.blk.mode = .sealed →
        exec i s = .next (withResult s (value10At s off)) :=
    ⟨h.illegalOutsideSealed, fun s hm => ofInt_value10 s off ▸ h.exec_eq hm (cdcRd10_ok hoff)⟩
  simp only [Obligations.ManaAndHealthAccessorsReadTenBits, List.forall_mem_cons]
  exact ⟨⟨by decide, hread .getMana (by decide)⟩, ⟨by decide, hread .getHealth (by decide)⟩, nofun⟩

/-- Settles O33: the four accessors are RDNIB of their field, in SEALED only. -/
theorem nibbleAccessorsReadOneNibble : Obligations.NibbleAccessorsReadOneNibble := by
  have hread {i : Instr} {off : Nat} {hi : Bool} (h : IsAccessor i (cdcRdnib · off hi))
      (hoff : off ≤ 63) : IllegalOutsideSealed i ∧ ∀ s : State, s.blk.mode = .sealed →
        exec i s = .next (withResult s (nibbleAt s off hi)) :=
    ⟨h.illegalOutsideSealed, fun s hm => ofInt_nibble s off hi ▸ h.exec_eq hm (cdcRdnib_ok hoff hi)⟩
  simp only [Obligations.NibbleAccessorsReadOneNibble, List.forall_mem_cons]
  exact ⟨⟨by decide, hread .getRespect (by decide)⟩, ⟨by decide, hread .getStrength (by decide)⟩,
    ⟨by decide, hread .getExperience (by decide)⟩, ⟨by decide, hread .getLevel (by decide)⟩, nofun⟩

/-- Settles O34: the three accessors are GETBIT in byte 61, in SEALED only. -/
theorem flagAccessorsReadOneBit : Obligations.FlagAccessorsReadOneBit := by
  have hread {i : Instr} {n : Nat} (h : IsAccessor i (cdcGetbit · 61 n)) :
      IllegalOutsideSealed i ∧ ∀ s : State, s.blk.mode = .sealed →
        exec i s = .next (withResult s (bitAt s 61 n)) :=
    ⟨h.illegalOutsideSealed, fun s hm =>
      ofInt_bit s 61 n ▸ h.exec_eq hm (cdcGetbit_ok (by decide) n)⟩
  simp only [Obligations.FlagAccessorsReadOneBit, List.forall_mem_cons]
  exact ⟨⟨by decide, hread .getHouse⟩, ⟨by decide, hread .getGun⟩,
    ⟨by decide, hread .getFamily⟩, nofun⟩

/-- Settles O35: the seal conditions leave no Type code but 0, 1 and 2. -/
theorem getTypeReadsTheTypeCode : Obligations.GetTypeReadsTheTypeCode := by
  refine ⟨by decide, IsAccessor.getType.illegalOutsideSealed, fun s hm => ⟨?_, fun hinv => ?_⟩⟩
  · rw [← typeCode_eq_div]
    exact IsAccessor.getType.exec_eq hm rfl
  · obtain ⟨-, -, -, hseal⟩ := hinv
    have hle := typeCode_le_of_mayBeSealed ((sealOk_iff_mayBeSealed _).mp (hseal hm))
    omega

/-- Settles O36: every read of a field is within the bounds of the record and gives no more than its
bits hold; the seal conditions bound Type. -/
theorem accessorsAreTotalOverASealedRecord : Obligations.AccessorsAreTotalOverASealedRecord := by
  have hword {i : Instr} {off : Nat} (h : IsAccessor i (cdcRd32 · off)) (hoff : off ≤ 60) :=
    h.total (by decide) fun _ _ => cdcRd32_total hoff
  have hten {i : Instr} {off : Nat} (h : IsAccessor i (cdcRd10 · off)) (hoff : off ≤ 62) :=
    h.total (by decide) fun _ _ => cdcRd10_total hoff
  have hnibble {i : Instr} {off : Nat} {hi : Bool} (h : IsAccessor i (cdcRdnib · off hi))
      (hoff : off ≤ 63) := h.total (by decide) fun _ _ => cdcRdnib_total hoff hi
  have hflag {i : Instr} {n : Nat} (h : IsAccessor i (cdcGetbit · 61 n)) :=
    h.total (by decide) fun _ _ => cdcGetbit_total (by decide) n
  simp only [Obligations.AccessorsAreTotalOverASealedRecord, List.forall_mem_cons]
  exact ⟨IsAccessor.getName.total (by decide) fun b _ => nameLength_total b,
    hword .getX (by decide), hword .getY (by decide), hword .getZ (by decide),
    hword .getGold (by decide), hten .getMana (by decide), hten .getHealth (by decide),
    hnibble .getRespect (by decide), hnibble .getStrength (by decide),
    hnibble .getExperience (by decide), hnibble .getLevel (by decide), hflag .getHouse,
    hflag .getGun, hflag .getFamily,
    IsAccessor.getType.total (by decide) fun _ => typeCode_total, nofun⟩

end Sys2Proof.Machine
end

section
/-! SUPPORT. What an accessor's read finds after a list of steps: a read depends on its field's bits
alone, so only the steps of that field change what it gives (42_accessors.md R187, 20_memory.md R58). -/

namespace Sys2Proof.Machine

open Sys2Proof.Claims

/-! ### A read of a field's bits -/

/-- What the read gives depends on the bits of the field alone. -/
def ReadsField (f : Field) (r : Memory → Except CmdError Int) : Prop :=
  ∀ b b' : Memory, (∀ a i, Owns f a i → (b'.read a).getLsbD i = (b.read a).getLsbD i) → r b' = r b

theorem extractLsb'_congr {x y : Byte} {start len : Nat}
    (h : ∀ i, start ≤ i → i < start + len → x.getLsbD i = y.getLsbD i) :
    x.extractLsb' start len = y.extractLsb' start len := by
  apply BitVec.eq_of_getLsbD_eq
  intro i hi
  rw [BitVec.getLsbD_extractLsb', BitVec.getLsbD_extractLsb', h _ (by omega) (by omega)]

section ReadsField

variable {f : Field} {off : Nat}

theorem cdcRd32_congr {b b' : Memory} (h : ∀ k < 4, b'.read (off + k) = b.read (off + k)) :
    cdcRd32 b' off = cdcRd32 b off := by
  have h0 : b'.read off = b.read off := h 0 (by decide)
  simp only [cdcRd32, Memory.readBE32, h0, h 1 (by decide), h 2 (by decide), h 3 (by decide)]

theorem readsField_cdcRd32 (hown : ∀ a i, off ≤ a → a < off + 4 → Owns f a i) :
    ReadsField f (cdcRd32 · off) :=
  fun _ _ h => cdcRd32_congr fun _ _ =>
    BitVec.eq_of_getLsbD_eq fun i _ => h _ i (hown _ i (by omega) (by omega))

theorem readsField_cdcRd10 (hoff : off ≤ 62) (hlow : ∀ i, Owns f off i)
    (hhigh : ∀ i, i = 4 ∨ i = 5 → Owns f (off + 1) i) : ReadsField f (cdcRd10 · off) := by
  intro b b' h
  have hfirst : b'.read off = b.read off := BitVec.eq_of_getLsbD_eq fun i _ => h _ i (hlow i)
  have hsecond : (b'.read (off + 1)).extractLsb' 4 2 = (b.read (off + 1)).extractLsb' 4 2 :=
    extractLsb'_congr fun i _ _ => h _ i (hhigh i (by omega))
  simp only [cdcRd10_ok hoff, value10_eq_append, hfirst, hsecond]

theorem readsField_cdcRdnib {hi : Bool} (hoff : off ≤ 63)
    (hown : ∀ i, (if hi then 4 ≤ i else i ≤ 3) → Owns f off i) :
    ReadsField f (cdcRdnib · off hi) := by
  intro b b' h
  have hnibble : (b'.read off).extractLsb' (if hi then 4 else 0) 4 =
      (b.read off).extractLsb' (if hi then 4 else 0) 4 := by
    refine extractLsb'_congr fun i hlo hlt => h _ i (hown i ?_)
    cases hi with
    | true => exact hlo
    | false => exact Nat.le_of_lt_succ hlt
  simp only [cdcRdnib_ok hoff, hnibble]

theorem readsField_cdcGetbit {i : Nat} (hoff : off ≤ 63) (hown : Owns f off i) :
    ReadsField f (cdcGetbit · off i) := fun b b' h => by
  simp only [cdcGetbit_ok hoff, h _ _ hown]

theorem readsField_nameLength : ReadsField .name fun b => .ok (nameLength b : Int) := by
  intro b b' h
  have hbyte (k : Nat) (hk : k ≤ 41) : b'.read k = b.read k :=
    BitVec.eq_of_getLsbD_eq fun i _ => h k i hk
  obtain ⟨hle, hbefore, hat⟩ := nameLength_spec b
  have hlen : NameLength b' (nameLength b) :=
    ⟨hle, fun k hk => hbyte k (by omega) ▸ hbefore k hk,
      fun hlt => (hbyte _ (by omega)).trans (hat hlt)⟩
  exact congrArg (fun l : Nat => Except.ok (l : Int)) (nameLength_unique (nameLength_spec b') hlen)

theorem readsField_typeCode : ReadsField .type fun b => .ok (typeCode b : Int) := by
  intro b b' h
  have hbits : (b'.read 61).extractLsb' 6 2 = (b.read 61).extractLsb' 6 2 :=
    extractLsb'_congr fun i _ _ => h 61 i ⟨rfl, by omega⟩
  simp only [typeCode_eq_extractLsb', hbits]

end ReadsField

/-! ### The fields of the layout (R57) -/

theorem readsField_coords {off : Nat} (hlo : 42 ≤ off) (hhi : off ≤ 50) :
    ReadsField .coords (cdcRd32 · off) :=
  readsField_cdcRd32 fun _ _ _ _ => ⟨by omega, by omega⟩

theorem readsField_gold : ReadsField .gold (cdcRd32 · 54) :=
  readsField_cdcRd32 fun _ _ _ _ => ⟨by omega, by omega⟩

theorem readsField_mana : ReadsField .mana (cdcRd10 · 58) :=
  readsField_cdcRd10 (by decide) (fun _ => .inl rfl) fun _ hi => .inr ⟨rfl, hi⟩

theorem readsField_health : ReadsField .health (cdcRd10 · 60) :=
  readsField_cdcRd10 (by decide) (fun _ => .inl rfl) fun _ hi => .inr ⟨rfl, hi⟩

theorem readsField_respect : ReadsField .respect (cdcRdnib · 62 true) :=
  readsField_cdcRdnib (by decide) fun _ hi => ⟨rfl, hi⟩

theorem readsField_strength : ReadsField .strength (cdcRdnib · 62 false) :=
  readsField_cdcRdnib (by decide) fun _ hi => ⟨rfl, hi⟩

theorem readsField_experience : ReadsField .experience (cdcRdnib · 63 true) :=
  readsField_cdcRdnib (by decide) fun _ hi => ⟨rfl, hi⟩

theorem readsField_level : ReadsField .level (cdcRdnib · 63 false) :=
  readsField_cdcRdnib (by decide) fun _ hi => ⟨rfl, hi⟩

/-! ### The read after a step of its field -/

/-- The first zero of a list of bytes padded with zeros. -/
theorem getD_takeWhile_ne_zero (bytes : List Byte) :
    (∀ k < (bytes.takeWhile (· ≠ 0)).length, bytes.getD k 0 ≠ 0) ∧
      bytes.getD (bytes.takeWhile (· ≠ 0)).length 0 = 0 := by
  induction bytes with
  | nil => exact ⟨fun k hk => absurd hk (Nat.not_lt_zero k), rfl⟩
  | cons x xs ih =>
    obtain ⟨hbefore, hat⟩ := ih
    by_cases hx : x = 0
    · simp [hx]
    · rw [List.takeWhile_cons_of_pos (by simpa using hx)]
      refine ⟨fun k hk => ?_, hat⟩
      cases k with
      | zero => exact hx
      | succ k => exact hbefore k (Nat.lt_of_succ_lt_succ hk)

/-- A Name step leaves the name's bytes before its first zero as the name (R143, R171). -/
theorem nameLength_of_stepName {bytes : List Byte} {b b' : Memory}
    (h : stepName bytes.length (bytes.getD · 0) b = .ok b') :
    nameLength b' = (bytes.takeWhile (· ≠ 0)).length := by
  by_cases hlen : bytes.length ≤ 42
  · obtain rfl := Except.ok.inj ((stepName_ok _ b hlen).symm.trans h)
    have hread (k : Nat) (hk : k < 42) :
        (b.fill 0 42 (paddedName bytes.length (bytes.getD · 0))).read k = bytes.getD k 0 := by
      rw [Memory.read_fill, if_pos (by omega), Nat.sub_zero, paddedName, ite_eq_left_iff]
      exact fun hk => (List.getD_eq_default _ _ (by omega)).symm
    have hle := (List.takeWhile_sublist (l := bytes) (· ≠ 0)).length_le
    obtain ⟨hbefore, hat⟩ := getD_takeWhile_ne_zero bytes
    exact nameLength_unique (nameLength_spec _) ⟨by omega,
      fun k hk => hread k (by omega) ▸ hbefore k hk, fun hl => (hread _ hl).trans hat⟩
  · exact nomatch (stepName_outOfRange _ b (by omega)).symm.trans h

theorem cdcRd32_writeBE32_other (m : Memory) {off off' : Nat} (w : Word) (h : off + 4 ≤ off') :
    cdcRd32 (m.writeBE32 off' w) off = cdcRd32 m off :=
  cdcRd32_congr fun _ _ => m.read_writeBE32_other w (.inl (by omega))

/-- An accepted Coordinates step leaves all three values (R144). -/
theorem cdcRd32_of_stepCoords {x y z : Int} {b b' : Memory} (h : stepCoords x y z b = .ok b') :
    cdcRd32 b' 42 = .ok x ∧ cdcRd32 b' 46 = .ok y ∧ cdcRd32 b' 50 = .ok z := by
  by_cases hv : OutsideInt32 x ∨ OutsideInt32 y ∨ OutsideInt32 z
  · exact nomatch (stepCoords_outOfRange b hv).symm.trans h
  · obtain ⟨hx, hy, hz⟩ : ¬OutsideInt32 x ∧ ¬OutsideInt32 y ∧ ¬OutsideInt32 z := by tauto
    obtain rfl := Except.ok.inj ((stepCoords_ok b hx hy hz).symm.trans h)
    refine ⟨?_, ?_, cdcRd32_of_cdcWr32 (cdcWr32_ok _ hz (by decide))⟩
    · rw [cdcRd32_writeBE32_other _ _ (by decide), cdcRd32_writeBE32_other _ _ (by decide)]
      exact cdcRd32_of_cdcWr32 (cdcWr32_ok _ hx (by decide))
    · rw [cdcRd32_writeBE32_other _ _ (by decide)]
      exact cdcRd32_of_cdcWr32 (cdcWr32_ok _ hy (by decide))

theorem typeCode_of_stepType {v : Int} {b b' : Memory} (h : stepType v b = .ok b') :
    (typeCode b' : Int) = v := by
  by_cases hv : 0 ≤ v ∧ v ≤ 2
  · obtain ⟨h0, h2⟩ := hv
    obtain rfl := Except.ok.inj ((stepType_ok b h0 h2).symm.trans h)
    rw [typeCode_eq_extractLsb', Memory.read_write_same, mergeType_value h0 h2,
      toNat_ofInt_of_bounds h0 (by omega)]
  · exact nomatch (stepType_outOfRange b (by omega)).symm.trans h

/-! ### The read after a list of steps (R187) -/

/-- The step supplies this value to the field that the read reads, or it is of another field. -/
def Supplies (f : Field) (r : Memory → Except CmdError Int) (c : ConfigStep) : Option Int → Prop
  | some v => ∀ b b', c.apply b = .ok b' → r b' = .ok v
  | none => c.field ≠ f

section Steps

variable {f : Field} {r : Memory → Except CmdError Int} {pick : ConfigStep → Option Int}
  {steps : List ConfigStep} {b b' : Memory} {d : Int}

/-- A step leaves the read at the value it supplies, or as it was. -/
theorem read_of_apply {c : ConfigStep} (hr : ReadsField f r) (hc : Supplies f r c (pick c))
    (h : c.apply b = .ok b') (hd : r b = .ok d) : r b' = .ok ((pick c).getD d) := by
  cases hp : pick c with
  | some v => exact (hp ▸ hc : Supplies f r c (some v)) b b' h
  | none =>
    have hne : c.field ≠ f := (hp ▸ hc : Supplies f r c none)
    have hkept : r b' = r b :=
      hr b b' fun a i ho => ConfigStep.apply_kept h (owns_disjoint hne.symm a i ho)
    exact hkept.trans hd

/-- The read after steps gives the last value supplied, or what it gave before them. -/
theorem read_of_applySteps (hr : ReadsField f r) (hpick : ∀ c, Supplies f r c (pick c))
    (h : applySteps steps b = .ok b') (hd : r b = .ok d) : r b' = .ok (lastOr pick d steps) := by
  induction steps generalizing b d with
  | nil => exact Except.ok.inj h ▸ hd
  | cons c cs ih =>
    rw [applySteps] at h
    split at h
    next b₁ hc => exact ih h (read_of_apply hr (hpick c) hc hd)
    next => exact nomatch h

/-- An accessor over the record of a build gives the last value supplied, or the default 0 (R157). -/
theorem IsAccessor.reads_build {i : Instr} (hi : IsAccessor i r) (hr : ReadsField f r)
    (hzero : r Memory.zeroed = .ok 0) (h : build steps = .ok b)
    (hpick : ∀ c, Supplies f r c (pick c)) : Reads b i (lastOr pick 0 steps) :=
  hi.reads (read_of_applySteps hr hpick (build_eq_applySteps steps ▸ h) hzero)

end Steps

/-! ### The flags -/

/-- A flag step supplies 1 to its flag, any other step supplies nothing. -/
def flagPick (d c : ConfigStep) : Option Int := if c = d then some 1 else none

/-- The last value supplied to a flag says whether its step was applied. -/
theorem lastOr_flagPick (d : ConfigStep) (v : Int) (steps : List ConfigStep) :
    lastOr (flagPick d) v steps = if d ∈ steps then 1 else v := by
  induction steps generalizing v with
  | nil => simp [lastOr]
  | cons c cs ih =>
    rw [lastOr, ih]
    by_cases hc : c = d
    · simp [flagPick, hc]
    · simp [flagPick, hc, Ne.symm hc]

/-- The accessor of bit `n` of byte 61 reads 1 exactly when the step that sets the bit was applied. -/
theorem IsAccessor.reads_flag {i : Instr} {d : ConfigStep} {n : Nat} {steps : List ConfigStep}
    {b : Memory} (hi : IsAccessor i (cdcGetbit · 61 n)) (hn : n < 8)
    (hd : ∀ b, d.apply b = cdcSetbit b 61 n) (hown : Owns d.field 61 n)
    (hfield : ∀ c : ConfigStep, c.field = d.field → c = d) (h : build steps = .ok b) :
    Reads b i (if d ∈ steps then 1 else 0) := by
  have hzero : cdcGetbit Memory.zeroed 61 n = .ok 0 := by simp [cdcGetbit_ok]
  rw [← lastOr_flagPick]
  refine hi.reads_build (readsField_cdcGetbit (by decide) hown) hzero h fun c => ?_
  rw [flagPick]
  split
  next hc => exact fun b b' hb => cdcGetbit_of_cdcSetbit hn ((hd b).symm.trans (hc ▸ hb))
  next hc => exact mt (hfield c) hc

end Sys2Proof.Machine
end

section
/-! The statement of 42_accessors.md about the accessors after a build. -/

namespace Sys2Proof.Machine

open Sys2Proof.Claims

/-- Settles O58: a step of a field leaves its value to the accessor's read, and steps of other fields
do not touch the bits read. -/
theorem accessorsReadBackTheBuild : Obligations.AccessorsReadBackTheBuild := by
  intro steps b h
  refine ⟨?_, ?_, ?_, ?_, ?_, ?_, ?_, ?_, ?_, ?_, ?_, ?_, ?_, ?_, ?_⟩
  · refine IsAccessor.getName.reads_build readsField_nameLength rfl h fun c => ?_
    cases c with
    | name => exact fun _ _ hb =>
        congrArg (fun l : Nat => Except.ok (l : Int)) (nameLength_of_stepName hb)
    | _ => exact nofun
  · refine IsAccessor.getX.reads_build (readsField_coords (by decide) (by decide)) rfl h fun c => ?_
    cases c with
    | coords => exact fun _ _ hb => let ⟨hx, _, _⟩ := cdcRd32_of_stepCoords hb; hx
    | _ => exact nofun
  · refine IsAccessor.getY.reads_build (readsField_coords (by decide) (by decide)) rfl h fun c => ?_
    cases c with
    | coords => exact fun _ _ hb => let ⟨_, hy, _⟩ := cdcRd32_of_stepCoords hb; hy
    | _ => exact nofun
  · refine IsAccessor.getZ.reads_build (readsField_coords (by decide) (by decide)) rfl h fun c => ?_
    cases c with
    | coords => exact fun _ _ hb => let ⟨_, _, hz⟩ := cdcRd32_of_stepCoords hb; hz
    | _ => exact nofun
  · refine IsAccessor.getGold.reads_build readsField_gold rfl h fun c => ?_
    cases c with
    | gold => exact fun _ _ => cdcRd32_of_cdcWr32
    | _ => exact nofun
  · refine IsAccessor.getMana.reads_build readsField_mana rfl h fun c => ?_
    cases c with
    | mana => exact fun _ _ => cdcRd10_of_cdcWr10
    | _ => exact nofun
  · refine IsAccessor.getHealth.reads_build readsField_health rfl h fun c => ?_
    cases c with
    | health => exact fun _ _ => cdcRd10_of_cdcWr10
    | _ => exact nofun
  · refine IsAccessor.getRespect.reads_build readsField_respect rfl h fun c => ?_
    cases c with
    | respect => exact fun _ _ => cdcRdnib_of_cdcWrnib
    | _ => exact nofun
  · refine IsAccessor.getStrength.reads_build readsField_strength rfl h fun c => ?_
    cases c with
    | strength => exact fun _ _ => cdcRdnib_of_cdcWrnib
    | _ => exact nofun
  · refine IsAccessor.getExperience.reads_build readsField_experience rfl h fun c => ?_
    cases c with
    | experience => exact fun _ _ => cdcRdnib_of_cdcWrnib
    | _ => exact nofun
  · refine IsAccessor.getLevel.reads_build readsField_level rfl h fun c => ?_
    cases c with
    | level => exact fun _ _ => cdcRdnib_of_cdcWrnib
    | _ => exact nofun
  · refine IsAccessor.getHouse.reads_flag (by decide) (fun _ => rfl) ⟨rfl, rfl⟩ (fun c hc => ?_) h
    cases c with
    | house => rfl
    | _ => exact nomatch hc
  · refine IsAccessor.getGun.reads_flag (by decide) (fun _ => rfl) ⟨rfl, rfl⟩ (fun c hc => ?_) h
    cases c with
    | gun => rfl
    | _ => exact nomatch hc
  · refine IsAccessor.getFamily.reads_flag (by decide) (fun _ => rfl) ⟨rfl, rfl⟩ (fun c hc => ?_) h
    cases c with
    | family => rfl
    | _ => exact nomatch hc
  · refine IsAccessor.getType.reads_build readsField_typeCode rfl h fun c => ?_
    cases c with
    | type => exact fun _ _ hb => congrArg Except.ok (typeCode_of_stepType hb)
    | _ => exact nofun

end Sys2Proof.Machine
end

section
/-! The statement of 60_exceptions.md about the errors of a CMD write. -/

namespace Sys2Proof.Machine

open Sys2Proof.Claims

/-- A CMD write in front of the queue runs the command cycle on the rest of it (R87). -/
theorem step_queued_command (w : Word) (s : State) (rest : List Event) :
    step (queued s (.write 0x008 .word w :: rest)) = cmdWrite w (queued s rest) := by
  rw [step_cons rfl]
  exact perform_cmdEvent w _

/-- Settles O10: a CMD write ends in error entry or its command succeeds, and a command that succeeds
leaves ERR at OK. -/
theorem everyErrorIsErrorEntry : Obligations.EveryErrorIsErrorEntry := by
  intro w s t rest h herr
  rw [step_queued_command] at h
  obtain ⟨e, rfl⟩ | ⟨i, -, hs⟩ := cmdWrite_eq_next h
  · exact ⟨e, afterError_fail (queued s rest) e⟩
  · exact absurd hs.err_eq_ok herr

end Sys2Proof.Machine
end

section
/-! SUPPORT. A command's word decodes to the command (30_encoding.md R81 to R85). -/

namespace Sys2Proof

/-- The decoder reads the fields of a well-formed command back: its opcode's arm accepts them, and an
operand that fits its field is the number that the field holds. -/
theorem decodeFields_fields {i : Instr} (h : i.WellFormed) : decodeFields i.fields = .ok i := by
  cases i with
  | wr32 n | rd32 n | wr10 n | rd10 n | wrnib n | rdnib n | withName n =>
    have hn : n < 256 := of_decide_eq_true h
    refine accept_eq_ok.mpr ⟨rfl, rfl, ?_⟩
    simp [Instr.fields, Nat.mod_eq_of_lt hn]
  | setbit n k | getbit n k | setmask n _ k =>
    obtain ⟨hn, hk⟩ := Bool.and_eq_true_iff.mp h
    replace hn : n < 256 := of_decide_eq_true hn
    replace hk : k < 8 := of_decide_eq_true hk
    refine accept_eq_ok.mpr ⟨rfl, rfl, ?_⟩
    simp [Instr.fields, Nat.mod_eq_of_lt hn, Nat.mod_eq_of_lt hk]
  | _ => rfl

theorem decode_encode {i : Instr} (h : i.WellFormed) : decode (encode i) = .ok i := by
  rw [decode, encode, CmdFields.ofWord_toWord, decodeFields_fields h]

end Sys2Proof
end

section
/-! SUPPORT. The invariant of the block (10_state.md R38, R39, 20_memory.md R76): error entry, a
successful command and a register write keep it, and what it says of the bytes. -/

namespace Sys2Proof.Machine

open Sys2Proof.Claims

/-! ### What keeps the invariant -/

section Invariant

variable {b : Block}

/-- Error entry in a build leaves IDLE with a zero BUF; elsewhere it changes ERR alone (R206). -/
theorem Block.Inv.fail (h : b.Inv) (e : CmdError) : (b.fail e).Inv := by
  obtain ⟨hbuf, hname, hidle, hsealed⟩ := h
  by_cases hm : b.mode = .building
  · rw [Block.fail_building _ _ hm]
    exact ⟨Memory.wf_zeroed _, hname, fun _ => rfl, nofun⟩
  · rw [Block.fail_not_building _ _ hm]
    exact ⟨hbuf, hname, hidle, hsealed⟩

/-- The NSTAGE window ends with NSTAGE[41] (R51). -/
theorem HostReg.lt_of_ofAddr_eq_nstage {a k : Nat} (h : HostReg.ofAddr a = .nstage k) : k < 42 := by
  simp only [HostReg.ofAddr, ite_eq_iff, reduceCtorEq, HostReg.nstage.injEq, and_false, false_or,
    or_false] at h
  omega

theorem Block.Inv.writeReg (h : b.Inv) (d : Word) (a : Nat) :
    (b.writeReg d (HostReg.ofAddr a)).Inv := by
  obtain ⟨hbuf, hname, hidle, hsealed⟩ := h
  cases hr : HostReg.ofAddr a with
  | nstage k =>
    exact ⟨hbuf, Memory.wf_write _ (HostReg.lt_of_ofAddr_eq_nstage hr) hname, hidle, hsealed⟩
  | _ => exact ⟨hbuf, hname, hidle, hsealed⟩

end Invariant

theorem inv_reset : State.reset.Inv :=
  ⟨Memory.wf_nil _, Memory.wf_nil _, fun _ => rfl, nofun⟩

/-- SEAL checks what SEALED asks for, and the writes to BUF are made in BUILDING, which asks nothing
of the bytes (R84, R156). -/
theorem Succeeds.inv {i : Instr} {s t : State} (hs : Succeeds i s t) (h : s.Inv) : t.Inv := by
  obtain ⟨hbuf, hname, hidle, hsealed⟩ := h
  cases hs with
  | began _ ht =>
    rw [ht]
    exact ⟨Memory.wf_zeroed _, hname, nofun, nofun⟩
  | sealedRecord _ _ hok ht =>
    rw [ht]
    exact ⟨hbuf, hname, nofun, fun _ => hok⟩
  | wrote m _ _ hm hw ht =>
    rw [ht]
    exact ⟨hw hbuf, hname, fun hi => absurd (hm.symm.trans hi) nofun,
      fun hs => absurd (hm.symm.trans hs) nofun⟩
  | produced v _ ht =>
    rw [ht]
    exact ⟨hbuf, hname, hidle, hsealed⟩

theorem cmdWrite_inv {w : Word} {s t : State} (hc : cmdWrite w s = .next t) (h : s.Inv) : t.Inv := by
  obtain ⟨e, rfl⟩ | ⟨i, -, hs⟩ := cmdWrite_eq_next hc
  · exact Block.Inv.fail h e
  · exact hs.inv h

/-! ### What the invariant says of the bytes -/

/-- A canonical memory lists nothing at or past its size (R76). -/
theorem Memory.read_of_size_le {lo size : Nat} {m : Memory} (hm : Memory.wfFrom lo size m = true)
    {a : Nat} (ha : size ≤ a) : m.read a = 0 := by
  induction m generalizing lo with
  | nil => rfl
  | cons c m ih =>
    simp only [Memory.wfFrom, Bool.and_eq_true, decide_eq_true_eq] at hm
    obtain ⟨⟨⟨-, hlt⟩, -⟩, hrest⟩ := hm
    rw [Memory.read_cons, if_neg (by omega)]
    exact ih hrest

end Sys2Proof.Machine
end

section
/-! SUPPORT. What a CMD write and a step leave unchanged: the operands and the host's side
(10_state.md R23, R24), the record and the status (R22, R26 to R29), and the actions still to come. -/

namespace Sys2Proof.Machine

open Sys2Proof.Claims

/-! ### The operands and the host's side -/

/-- The operand registers, NSTAGE and the host's side of the two states are the same. -/
structure SameOperands (s t : State) : Prop where
  opa : t.blk.opa = s.blk.opa
  opb : t.blk.opb = s.blk.opb
  opc : t.blk.opc = s.blk.opc
  nstage : t.blk.nstage = s.blk.nstage
  pending : t.pending = s.pending
  listing : t.listing = s.listing

theorem sameOperands_fail (s : State) (e : CmdError) : SameOperands s (s.fail e) :=
  ⟨Block.fail_opa _ e, Block.fail_opb _ e, Block.fail_opc _ e, Block.fail_nstage _ e, rfl, rfl⟩

theorem Succeeds.sameOperands {i : Instr} {s t : State} (h : Succeeds i s t) : SameOperands s t := by
  cases h with
  | began _ ht | sealedRecord _ _ _ ht | wrote _ _ _ _ _ ht | produced _ _ ht =>
    rw [ht]
    exact ⟨rfl, rfl, rfl, rfl, rfl, rfl⟩

theorem exec_sameOperands {i : Instr} {s t : State} (h : exec i s = .next t) : SameOperands s t := by
  obtain ⟨e, rfl⟩ | hs := exec_eq_next h
  · exact sameOperands_fail s e
  · exact hs.sameOperands

theorem cmdWrite_sameOperands {w : Word} {s t : State} (h : cmdWrite w s = .next t) :
    SameOperands s t := by
  obtain ⟨e, rfl⟩ | ⟨i, -, hs⟩ := cmdWrite_eq_next h
  · exact sameOperands_fail s e
  · exact hs.sameOperands

/-! ### MODE and RES after a CMD write -/

/-- A successful command changes MODE only if it is BEGIN or SEAL (R27). -/
theorem Succeeds.mode_changed {i : Instr} {s t : State} (h : Succeeds i s t)
    (hne : t.blk.mode ≠ s.blk.mode) :
    (i = .beginBuild ∧ t.blk.mode = .building) ∨ (i = .sealRecord ∧ t.blk.mode = .sealed) := by
  cases h with
  | began hi ht => exact .inl ⟨hi, by rw [ht]⟩
  | sealedRecord hi _ _ ht => exact .inr ⟨hi, by rw [ht]⟩
  | wrote _ _ _ _ _ ht | produced _ _ ht => exact absurd (congrArg (·.blk.mode) ht) hne

/-- Error entry changes MODE only in a build, which it aborts (R206). -/
theorem fail_mode_changed {s : State} {e : CmdError} (hne : (s.fail e).blk.mode ≠ s.blk.mode) :
    s.blk.mode = .building ∧ (s.fail e).blk.mode = .idle := by
  by_cases hm : s.blk.mode = .building
  · exact ⟨hm, by rw [State.fail_blk, Block.fail_building _ _ hm]⟩
  · rw [State.fail_blk, Block.fail_not_building _ _ hm] at hne
    exact absurd rfl hne

/-- A successful command changes RES only if it produces a value (R26). -/
theorem Succeeds.producesValue_of_res_changed {i : Instr} {s t : State} (h : Succeeds i s t)
    (hne : t.blk.res ≠ s.blk.res) : ProducesValue i := by
  cases h with
  | produced _ hi _ => exact hi
  | began _ ht | sealedRecord _ _ _ ht | wrote _ _ _ _ _ ht => exact absurd (by rw [ht]) hne

/-! ### Steps -/

@[simp] theorem Block.writeReg_res (b : Block) (d : Word) (r : HostReg) :
    (b.writeReg d r).res = b.res := by
  cases r <;> rfl

@[simp] theorem Block.writeReg_err (b : Block) (d : Word) (r : HostReg) :
    (b.writeReg d r).err = b.err := by
  cases r <;> rfl

/-- A step takes one action off the list (R68). -/
theorem pending_of_step {s t : State} (h : step s = .next t) : t.pending = s.pending.tail := by
  cases stepEffect_of_step h with
  | nothing hp ht => rw [ht, hp, List.tail_nil]
  | reset rest hp ht | read _ rest hp ht | write _ _ rest hp _ ht =>
    rw [ht, hp, List.tail_cons]
    rfl
  | command w rest hp hc =>
    rw [hp, List.tail_cons]
    exact (cmdWrite_sameOperands hc).pending

end Sys2Proof.Machine
end

section
/-! The statements about encoding, the step of a CMD write and reset (30_encoding.md, 10_state.md R37,
70_reset_and_hazards.md R230, R238). -/

namespace Sys2Proof.Machine

open Sys2Proof.Claims

/-- Settles O5: the word's fields are those of the command, and the decoder reads them back. -/
theorem decodeOfEncodeGivesTheCommand : Obligations.DecodeOfEncodeGivesTheCommand :=
  fun _ => decode_encode

/-- Settles O11: the decoder is total, every command completes and touches no pending action. -/
theorem everyCommandWordCompletes : Obligations.EveryCommandWordCompletes := by
  intro w s rest
  obtain ⟨t, ht⟩ := cmdWrite_has_next w (queued s rest)
  exact ⟨t, (step_queued_command w s rest).trans ht, (cmdWrite_sameOperands ht).pending⟩

/-- Settles O1: the reset event puts the block of `State.reset` in place, element by element that of
R37. -/
theorem resetGivesEveryElementItsValue : Obligations.ResetGivesEveryElementItsValue :=
  ⟨fun _ _ => ⟨_, (step_cons rfl).trans (perform_reset _), rfl, rfl, rfl⟩,
    Memory.read_nil, Memory.read_nil, rfl, rfl, rfl, rfl, rfl, rfl, rfl⟩

/-- Settles O2: the CMD write decodes its word and runs the command or error entry. -/
theorem stepRunsTheDecodedCommand : Obligations.StepRunsTheDecodedCommand := by
  refine fun s w rest => ⟨fun i hd => ?_, fun r hd => step_queued_illegalWord hd s rest⟩
  rw [step_queued_command, cmdWrite_ok hd]

/-- Settles O3: a table word lies below 2 ^ nbits, so the placed word is the table's. -/
theorem stepRunsThePlacedTableWord : Obligations.StepRunsThePlacedTableWord := by
  intro s nbits w i h
  unfold decodeTableWord at h
  split at h
  case isFalse => exact nomatch h
  case isTrue hw =>
    split at h
    case h_2 => exact nomatch h
    case h_1 j hd =>
      obtain rfl := Option.some.inj h
      rw [step_cons (State.withFetchWord_pending s nbits w), Nat.mod_eq_of_lt hw.2, perform_cmdEvent,
        cmdWrite_ok hd]
      rfl

/-- Settles O8: ten closed words. -/
theorem sampleWordsDecode : Obligations.SampleWordsDecode := by
  unfold Obligations.SampleWordsDecode
  decide

end Sys2Proof.Machine
end

section
/-! The statements about the invariant and about what each step of the machine may change
(10_state.md R22 to R29, R38, R39, 20_memory.md R53, R76). -/

namespace Sys2Proof.Machine

open Sys2Proof.Claims

/-- Settles O43. -/
theorem invHoldsAtReset : Obligations.InvHoldsAtReset := inv_reset

/-- Settles O44, by the effects of a step: each keeps the invariant. -/
theorem stepKeepsInv : Obligations.StepKeepsInv := by
  intro s t h hstep
  cases stepEffect_of_step hstep with
  | nothing _ ht => exact ht ▸ h
  | reset rest _ ht =>
    rw [ht]
    exact inv_reset
  | read addr rest _ ht =>
    rw [ht]
    exact h
  | write addr d rest _ _ ht =>
    rw [ht]
    exact Block.Inv.writeReg h d addr
  | command w rest _ hc => exact cmdWrite_inv hc h

/-- Settles O45: the zeroed memory reads 0, `sealOk` is the seal conditions, and a canonical memory lists
nothing past its size. -/
theorem invGivesZeroBufAndSealConditions : Obligations.InvGivesZeroBufAndSealConditions := by
  intro s ⟨hbuf, hname, hidle, hsealed⟩
  refine ⟨fun hm a => ?_, fun hm => (sealOk_iff_mayBeSealed _).mp (hsealed hm),
    fun a => Memory.read_of_size_le hbuf, fun a => Memory.read_of_size_le hname⟩
  rw [hidle hm, Memory.read_zeroed]

/-- Settles O47: of the effects of a step only reset, BEGIN, SEAL and error entry in a build touch
MODE. -/
theorem onlyBeginSealErrorAndResetWriteMode : Obligations.OnlyBeginSealErrorAndResetWriteMode := by
  intro s t h hne
  cases stepEffect_of_step h with
  | nothing _ ht | read _ _ _ ht => exact absurd (congrArg (·.blk.mode) ht) hne
  | write _ _ _ _ _ ht => exact absurd (by rw [ht]; exact Block.writeReg_mode _ _ _) hne
  | reset rest hp _ => exact .inl ⟨rest, hp⟩
  | command w rest hp hc =>
    obtain ⟨e, rfl⟩ | ⟨i, hd, hs⟩ := cmdWrite_eq_next hc
    · obtain ⟨hm, hidle⟩ := fail_mode_changed hne
      exact .inr (.inr (.inr ⟨⟨w, rest, hp⟩, hm, hidle, by simp⟩))
    · obtain rfl := encode_of_decode hd
      obtain ⟨rfl, hm⟩ | ⟨rfl, hm⟩ := hs.mode_changed hne
      · exact .inr (.inl ⟨⟨rest, hp⟩, hm⟩)
      · exact .inr (.inr (.inl ⟨⟨rest, hp⟩, hm⟩))

/-- Settles O49: error entry keeps RES, and of the successful commands only the value-producing ones
write it. -/
theorem onlyASuccessfulReadWritesRes : Obligations.OnlyASuccessfulReadWritesRes := by
  intro s t h hne
  cases stepEffect_of_step h with
  | nothing _ ht | read _ _ _ ht => exact absurd (congrArg (·.blk.res) ht) hne
  | write _ _ _ _ _ ht => exact absurd (by rw [ht]; exact Block.writeReg_res _ _ _) hne
  | reset rest hp _ => exact .inl ⟨rest, hp⟩
  | command w rest hp hc =>
    obtain ⟨e, rfl⟩ | ⟨i, hd, hs⟩ := cmdWrite_eq_next hc
    · exact absurd (Block.fail_res _ e) hne
    · exact .inr ⟨w, i, ⟨rest, hp⟩, hd, hs.producesValue_of_res_changed hne, hs.err_eq_ok⟩

/-- Settles O50: neither error entry nor an effect of a successful command touches them. -/
theorem noCommandWritesItsOperands : Obligations.NoCommandWritesItsOperands := fun _ _ _ h =>
  have hsame := exec_sameOperands h
  ⟨hsame.opa, hsame.opb, hsame.opc, hsame.nstage, hsame.pending, hsame.listing⟩

/-- Settles O51: a read changes the listing, a write to another register than CMD that register. -/
theorem otherHostActionsKeepRecordAndStatus : Obligations.OtherHostActionsKeepRecordAndStatus := by
  intro s t h hreset hcmd
  cases stepEffect_of_step h with
  | nothing _ ht | read _ _ _ ht =>
    rw [ht]
    exact ⟨rfl, rfl, rfl, rfl, rfl⟩
  | write addr d rest _ _ ht =>
    rw [ht]
    exact ⟨Block.writeReg_buf _ _ _, Block.writeReg_res _ _ _, Block.writeReg_mode _ _ _,
      Block.writeReg_err _ _ _, Block.writeReg_abortCode _ _ _⟩
  | reset rest hp _ => exact absurd ⟨rest, hp⟩ hreset
  | command w rest hp _ => exact absurd ⟨rest, hp⟩ (hcmd w)

end Sys2Proof.Machine
end

section
/-! SUPPORT. Runs of the machine: host actions at the head of the list as a change of the block, from
register writes to operand loads and CMD writes (20_memory.md R54, R56, R68, 30_encoding.md R90, R91). -/

namespace Sys2Proof.Machine

open Sys2Proof.Claims

/-! ### One step of a run -/

theorem core_run_succ {s t : State} (h : step s = .next t) (n : Nat) :
    core.run (n + 1) s = core.run n t := by
  have hstep : core.step s = .next t := h
  simp only [Host.Core.run, hstep]

theorem core_run_one (s : State) : core.run 1 s = step s := by
  have hstep : core.step s = step s := rfl
  simp only [Host.Core.run]
  rw [hstep]
  cases step s <;> rfl

/-- A run of admitted actions takes them off the list one by one (R53, R238). -/
theorem core_run_of_admitted (k : Nat) {s : State} (h : ∀ e ∈ s.pending, ¬BadAccess e) :
    ∃ t, core.run k s = .next t ∧ t.pending = s.pending.drop k := by
  induction k generalizing s with
  | zero => exact ⟨s, rfl, rfl⟩
  | succ k ih =>
    obtain ⟨t, ht⟩ : ∃ t, step s = .next t := by
      cases hp : s.pending with
      | nil => exact ⟨s, step_nil hp⟩
      | cons e rest =>
        rw [step_cons hp]
        refine perform_of_admitted (Bool.not_eq_false _ ▸ mt (admitted_eq_false_iff_badAccess e).mp ?_) _
        exact h e (hp ▸ List.mem_cons_self)
    have htail := pending_of_step ht
    obtain ⟨u, hu, hdrop⟩ := ih fun e he => h e (List.mem_of_mem_tail (htail ▸ he))
    exact ⟨u, (core_run_succ ht k).trans hu, by rw [hdrop, htail, List.drop_tail]⟩

/-! ### Events that take the block from one value to another -/

/-- With these events at the head of the list the run takes the block from `b` to `b'` and goes on with
what comes after them; the listing stays. -/
def RunsTo (es : List Event) (b b' : Block) : Prop :=
  ∀ (s : State) (rest : List Event) (n : Nat), s.blk = b →
    core.run (n + es.length) (queued s (es ++ rest)) = core.run n { queued s rest with blk := b' }

/-- The register takes a write of its own address: it is not CMD (R51, R53). -/
structure HostReg.TakesWrite (r : HostReg) : Prop where
  ne_cmd : r ≠ .cmd
  ofAddr_addr : HostReg.ofAddr r.addr = r
  admitted : accessRefusal r.addr .word = none

theorem OpReg.halves_takeWrite (r : OpReg) : r.halves.1.TakesWrite ∧ r.halves.2.TakesWrite := by
  cases r <;> exact ⟨⟨nofun, rfl, rfl⟩, nofun, rfl, rfl⟩

theorem HostReg.nstage_takesWrite {k : Nat} (hk : k < 42) : (HostReg.nstage k).TakesWrite :=
  ⟨nofun, HostReg.ofAddr_nstage hk, accessRefusal_word_of_aligned (by simp only [addr]; omega)
    (by simp only [addr]; omega)⟩

/-- The CMD write of a well-formed command runs it (R87, R90). -/
theorem perform_instrEvent {i : Instr} (h : i.WellFormed) (s : State) :
    perform (instrEvent i) s = exec i s := by
  rw [instrEvent, perform_cmdEvent, cmdWrite_ok (decode_encode h)]

/-- A write of the HI half after one of the LO half leaves the value alone (R54). -/
theorem setHi_setLo (x v : DWord) : setHi (setLo x (loHalf v)) (hiHalf v) = v := by
  rw [setHi_eq_append, setLo_eq_append, BitVec.extractLsb'_append_eq_right]
  exact BitVec.extractLsb'_append_extractLsb' (w := 32)

/-- The block with a value in an operand register. -/
def Block.load (b : Block) : OpReg → DWord → Block
  | .a, v => { b with opa := v }
  | .b, v => { b with opb := v }
  | .c, v => { b with opc := v }

theorem Block.writeReg_halves (b : Block) (r : OpReg) (v : DWord) :
    (b.writeReg (loHalf v) r.halves.1).writeReg (hiHalf v) r.halves.2 = b.load r v := by
  cases r <;> simp only [OpReg.halves, Block.writeReg, Block.load, setHi_setLo]

/-- The bytes written from offset `k` on. -/
def Memory.stage (m : Memory) (k : Nat) : List Byte → Memory
  | [] => m
  | x :: xs => (m.write k x).stage (k + 1) xs

theorem Memory.read_stage_below {m : Memory} {k j : Nat} {bytes : List Byte} (h : j < k) :
    (m.stage k bytes).read j = m.read j := by
  induction bytes generalizing m k with
  | nil => rfl
  | cons x xs ih => rw [Memory.stage, ih (by omega), Memory.read_write_other _ _ (by omega)]

theorem Memory.read_stage (m : Memory) (k : Nat) {j : Nat} {bytes : List Byte}
    (h : j < bytes.length) : (m.stage k bytes).read (k + j) = bytes.getD j 0 := by
  induction bytes generalizing m k j with
  | nil => exact nomatch h
  | cons x xs ih =>
    rw [Memory.stage]
    cases j with
    | zero => exact (Memory.read_stage_below (by omega)).trans (Memory.read_write_same m k x)
    | succ j =>
      rw [show k + (j + 1) = k + 1 + j by omega]
      exact ih (m.write k x) (k + 1) (Nat.lt_of_succ_lt_succ h)

namespace RunsTo

variable {es es' : List Event} {b b' b'' : Block}

theorem nil (b : Block) : RunsTo [] b b := fun _ _ _ hs => by
  subst hs
  rfl

theorem append (h : RunsTo es b b') (h' : RunsTo es' b' b'') : RunsTo (es ++ es') b b'' := by
  intro s rest n hs
  rw [List.length_append, Nat.add_comm es.length, ← Nat.add_assoc, List.append_assoc, h s _ _ hs]
  exact h' { s with blk := b' } rest n rfl

/-- A run of nothing but these events. -/
theorem run {s : State} (h : RunsTo es s.blk b') :
    core.run es.length (queued s es) = .next { queued s [] with blk := b' } := by
  have hrun := h s [] 0 rfl
  rwa [Nat.zero_add, List.append_nil] at hrun

theorem event {e : Event} (h : ∀ s : State, s.blk = b → perform e s = .next { s with blk := b' }) :
    RunsTo [e] b b' := fun s rest n hs =>
  core_run_succ (s := queued s (e :: rest)) ((step_cons rfl).trans (h (queued s rest) hs)) n

theorem write {r : HostReg} (hr : r.TakesWrite) (d : Word) (b : Block) :
    RunsTo [regWrite r d] b (b.writeReg d r) := by
  refine event fun s hs => ?_
  rw [regWrite, perform_write hr.admitted (by rw [hr.ofAddr_addr]; exact hr.ne_cmd), hr.ofAddr_addr, hs]

theorem instr {i : Instr} (hi : i.WellFormed)
    (h : ∀ s : State, s.blk = b → exec i s = .next { s with blk := b' }) :
    RunsTo [instrEvent i] b b' :=
  event fun s hs => (perform_instrEvent hi s).trans (h s hs)

/-- `lda V`, `ldb V`, `ldc V` (R91). -/
theorem load (r : OpReg) (v : Int) (b : Block) :
    RunsTo (loadEvents r v) b (b.load r (BitVec.ofInt 64 v)) := by
  obtain ⟨hlo, hhi⟩ := r.halves_takeWrite
  rw [← Block.writeReg_halves]
  exact (write hlo _ _).append (write hhi _ _)

/-- `ldname "s"` (R91). -/
theorem stage {k : Nat} {bytes : List Byte} (h : k + bytes.length ≤ 42) (b : Block) :
    RunsTo (stageEvents k bytes) b { b with nstage := b.nstage.stage k bytes } := by
  induction bytes generalizing k b with
  | nil => exact nil b
  | cons x xs ih =>
    rw [List.length_cons] at h
    have hx := write (HostReg.nstage_takesWrite (k := k) (by omega)) (x.setWidth 32) b
    have hxs := ih (k := k + 1) (by omega) (b.writeReg (x.setWidth 32) (.nstage k))
    have hbyte : (x.setWidth 32).extractLsb' 0 8 = x := by
      rw [BitVec.extractLsb'_setWidth_of_le (by decide), BitVec.extractLsb'_eq_self]
    simp only [Block.writeReg, hbyte] at hx hxs
    exact hx.append hxs

end RunsTo

end Sys2Proof.Machine
end

section
/-! SUPPORT. The host sequence of a build against `build`: after each of its commands the block holds the
buffer under construction, or what the first error left (41_builder.md R140, 60_exceptions.md R206). -/

namespace Sys2Proof.Machine

open Sys2Proof.Claims

/-! ### What the block holds of a build -/

/-- The error has aborted the build, and no command since has succeeded. -/
def Aborted (e : CmdError) (b : Block) : Prop :=
  b.mode = .idle ∧ b.buf = Memory.zeroed ∧ b.err ≠ .ok ∧ b.abortCode = e.code

/-- The block holds a build that has come to this: the buffer under construction, or the error that
aborted it. -/
def HoldsBuild : Except CmdError Memory → Block → Prop
  | .ok m, b => b.mode = .building ∧ b.buf = m ∧ b.err = .ok ∧ b.abortCode = .ok
  | .error e, b => Aborted e b

/-- The block after the SEAL of such a build: the sealed record, or what the error left. -/
def HoldsRecord : Except CmdError Memory → Block → Prop
  | .ok m, b => b.mode = .sealed ∧ b.buf = m ∧ b.err = .ok ∧ b.abortCode = .ok
  | .error e, b => Aborted e b

/-- The block after BEGIN (R141). -/
def Block.begun (b : Block) : Block :=
  { b with buf := Memory.zeroed, mode := .building, err := .ok, abortCode := .ok }

theorem Block.holdsBuild_begun (b : Block) : HoldsBuild (.ok Memory.zeroed) b.begun :=
  ⟨rfl, rfl, rfl, rfl⟩

/-- A step's command cycle once its operands are in the registers (R87). -/
def ConfigStep.cycle (c : ConfigStep) (b : Block) : Block :=
  b.command buildingOnly fun b => b.putBuf (c.apply b.buf)

theorem HoldsBuild.cycle {r : Except CmdError Memory} {b : Block} (h : HoldsBuild r b)
    (c : ConfigStep) : HoldsBuild (r.bind c.apply) (c.cycle b) := by
  cases r with
  | error e =>
    obtain ⟨hm, hbuf, -, habort⟩ := h
    have hnb : b.mode ≠ .building := by rw [hm]; nofun
    have hc : c.cycle b = b.fail .illegalCommand := Block.command_illegal (by rw [hm]; rfl)
    rw [hc, Block.fail_not_building _ _ hnb]
    exact ⟨hm, hbuf, nofun, habort⟩
  | ok m =>
    obtain ⟨hm, rfl, -, habort⟩ := h
    have hl := (buildingOnly_iff _).mpr hm
    rw [Except.bind]
    cases ha : c.apply b.buf with
    | error e =>
      have hc : c.cycle b = b.fail e := Block.command_error hl (by rw [ha, Block.putBuf_error])
      rw [hc, Block.fail_building _ _ hm]
      exact ⟨rfl, rfl, CmdError.code_ne_ok e, rfl⟩
    | ok m' =>
      have hc : c.cycle b = Block.commit { b with buf := m' } :=
        Block.command_ok hl (by rw [ha, Block.putBuf_ok])
      rw [hc]
      exact ⟨hm, rfl, rfl, habort⟩

/-- SEAL ends a build whose buffer may be sealed, and is illegal after an error (R86, R156). -/
theorem HoldsBuild.seal {r : Except CmdError Memory} {b : Block} (h : HoldsBuild r b)
    (hs : ∀ m, r = .ok m → MayBeSealed m) :
    ∃ b', RunsTo [instrEvent .sealRecord] b b' ∧ HoldsRecord r b' := by
  cases r with
  | error e =>
    obtain ⟨hm, hbuf, -, habort⟩ := h
    refine ⟨{ b with err := .illegalCommand }, .instr rfl fun s hb => ?_, hm, hbuf, nofun, habort⟩
    subst hb
    rw [exec, execSealRecord, State.command_eq, Block.command_illegal (by rw [hm]; rfl),
      Block.fail_not_building _ _ (by rw [hm]; nofun)]
    rfl
  | ok m =>
    obtain ⟨hm, rfl, -, habort⟩ := h
    refine ⟨{ b with mode := .sealed, err := .ok }, .instr rfl fun s hb => ?_, rfl, rfl, rfl, habort⟩
    subst hb
    exact exec_sealRecord_ok hm (hs _ rfl)

/-! ### A step's host actions -/

/-- The two blocks hold the same of a build: they differ in operand registers, NSTAGE or RES only. -/
structure SameBuild (b b' : Block) : Prop where
  mode : b'.mode = b.mode
  buf : b'.buf = b.buf
  err : b'.err = b.err
  abortCode : b'.abortCode = b.abortCode

theorem HoldsBuild.of_sameBuild {r : Except CmdError Memory} {b b' : Block} (h : HoldsBuild r b)
    (hsame : SameBuild b b') : HoldsBuild r b' := by
  obtain ⟨hm, hbuf, herr, habort⟩ := hsame
  cases r with
  | error e => simpa only [HoldsBuild, Aborted, hm, hbuf, herr, habort] using h
  | ok m => simpa only [HoldsBuild, hm, hbuf, herr, habort] using h

theorem toInt_ofInt_of_inInt64 {v : Int} (h : inInt64 v = true) : (BitVec.ofInt 64 v).toInt = v := by
  obtain ⟨hlo, hhi⟩ := of_decide_eq_true h
  rw [BitVec.toInt_ofInt]
  exact Int.bmod_eq_of_le (by omega) (by omega)

section StepRun

variable {c : ConfigStep} {i : Instr} {b b' : Block}

/-- Operand events, then the CMD write of a command that does with the loaded operands what the step
does with its values. -/
theorem runsTo_cycle {es : List Event} {r : Block → Except CmdError Memory} (hes : RunsTo es b b')
    (hi : i.WellFormed) (hx : ∀ s, exec i s = s.command buildingOnly fun b => b.putBuf (r b))
    (hr : r b' = c.apply b'.buf) : RunsTo (es ++ [instrEvent i]) b (c.cycle b') := by
  refine hes.append (.instr hi fun s hs => ?_)
  subst hs
  rw [hx, State.command_eq, ConfigStep.cycle, Block.command, Block.command, hr]

/-- A step of one value: `lda V` and its command. -/
theorem value_runsTo_cycle {v : Int} {f : Int → Memory → Except CmdError Memory} (hv : inInt64 v = true)
    (hi : i.WellFormed)
    (hx : ∀ s, exec i s = s.command buildingOnly fun b => b.putBuf (f b.sOPA b.buf))
    (hc : ∀ m, f v m = c.apply m) (b : Block) :
    ∃ b', SameBuild b b' ∧ RunsTo (loadEvents .a v ++ [instrEvent i]) b (c.cycle b') := by
  refine ⟨b.load .a (BitVec.ofInt 64 v), ⟨rfl, rfl, rfl, rfl⟩, runsTo_cycle (.load .a v b) hi hx ?_⟩
  rw [← hc]
  exact congrArg (f · b.buf) (toInt_ofInt_of_inInt64 hv)

/-- A step without a value. -/
theorem flag_runsTo_cycle (hi : i.WellFormed)
    (hx : ∀ s, exec i s = s.command buildingOnly fun b => b.putBuf (c.apply b.buf)) (b : Block) :
    ∃ b', SameBuild b b' ∧ RunsTo [instrEvent i] b (c.cycle b') :=
  ⟨b, ⟨rfl, rfl, rfl, rfl⟩, runsTo_cycle (.nil b) hi hx rfl⟩

end StepRun

/-- The Name step reads no byte past the name's length. -/
theorem stepName_congr {len : Nat} {f g : Nat → Byte} (h : len ≤ 42 → ∀ k < len, f k = g k)
    (b : Memory) : stepName len f b = stepName len g b := by
  by_cases hlen : len ≤ 42
  · have hpad : paddedName len f = paddedName len g := by
      funext k
      unfold paddedName
      split
      · exact h hlen k ‹_›
      · rfl
    rw [stepName_ok _ _ hlen, stepName_ok _ _ hlen, hpad]
  · rw [stepName_outOfRange _ _ (by omega), stepName_outOfRange _ _ (by omega)]

theorem name_runsTo_cycle {bytes : List Byte} (h : bytes.length < 256) (b : Block) :
    ∃ b', SameBuild b b' ∧
      RunsTo (ConfigStep.name bytes).events b ((ConfigStep.name bytes).cycle b') := by
  have hlen : 0 + (bytes.take 42).length ≤ 42 := by rw [List.length_take]; omega
  refine ⟨{ b with nstage := b.nstage.stage 0 (bytes.take 42) }, ⟨rfl, rfl, rfl, rfl⟩,
    runsTo_cycle (.stage hlen b) (decide_eq_true h) (fun _ => rfl) ?_⟩
  refine stepName_congr (fun h42 k hk => ?_) b.buf
  rw [List.take_of_length_le h42]
  simpa using Memory.read_stage b.nstage 0 hk

theorem coords_runsTo_cycle {x y z : Int} (hx : inInt64 x = true) (hy : inInt64 y = true)
    (hz : inInt64 z = true) (b : Block) :
    ∃ b', SameBuild b b' ∧
      RunsTo (ConfigStep.coords x y z).events b ((ConfigStep.coords x y z).cycle b') := by
  have hload := ((RunsTo.load .a x b).append (.load .b y _)).append (.load .c z _)
  refine ⟨_, ?_, runsTo_cycle hload rfl (fun _ => rfl) ?_⟩
  · exact ⟨rfl, rfl, rfl, rfl⟩
  · simp only [Block.sOPA, Block.sOPB, Block.sOPC, Block.load, toInt_ofInt_of_inInt64, hx, hy, hz]
    rfl

/-- The host can put the operands of an expressible step in the registers, and its command then does to
BUF what the step does to the buffer (R92, R232). -/
theorem ConfigStep.runsTo_cycle {c : ConfigStep} (h : c.expressible = true) (b : Block) :
    ∃ b', SameBuild b b' ∧ RunsTo c.events b (c.cycle b') := by
  cases c with
  | name bytes => exact name_runsTo_cycle (of_decide_eq_true h) b
  | coords x y z =>
    obtain ⟨hxy, hz⟩ := Bool.and_eq_true_iff.mp h
    obtain ⟨hx, hy⟩ := Bool.and_eq_true_iff.mp hxy
    exact coords_runsTo_cycle hx hy hz b
  | gold | mana | health | respect | strength | experience | level | type =>
    exact value_runsTo_cycle h rfl (fun _ => rfl) (fun _ => rfl) b
  | house | gun | family => exact flag_runsTo_cycle rfl (fun _ => rfl) b

/-! ### The host actions of a list of steps -/

theorem applySteps_cons (c : ConfigStep) (cs : List ConfigStep) (b : Memory) :
    applySteps (c :: cs) b = (c.apply b).bind (applySteps cs) := by
  rw [applySteps]
  cases c.apply b <;> rfl

theorem stepsEvents_runTo {steps : List ConfigStep} (h : steps.all ConfigStep.expressible = true)
    {r : Except CmdError Memory} {b : Block} (hb : HoldsBuild r b) :
    ∃ b', RunsTo (stepsEvents steps) b b' ∧ HoldsBuild (r.bind (applySteps steps)) b' := by
  induction steps generalizing r b with
  | nil =>
    refine ⟨b, .nil b, ?_⟩
    cases r <;> exact hb
  | cons c cs ih =>
    obtain ⟨hc, hcs⟩ := Bool.and_eq_true_iff.mp h
    obtain ⟨b₁, hsame, hrun⟩ := c.runsTo_cycle hc b
    obtain ⟨b₂, hrest, hb₂⟩ := ih hcs ((hb.of_sameBuild hsame).cycle c)
    refine ⟨b₂, hrun.append hrest, ?_⟩
    cases r with
    | error e => exact hb₂
    | ok m => rw [Except.bind, applySteps_cons]; exact hb₂

/-- BEGIN, the steps, SEAL (R140). -/
theorem buildEvents_runTo {steps : List ConfigStep} (h : steps.all ConfigStep.expressible = true)
    (b : Block) : ∃ b', RunsTo (buildEvents steps) b b' ∧ HoldsRecord (build steps) b' := by
  have hbegin : RunsTo [instrEvent .beginBuild] b b.begun :=
    .instr rfl fun s hs => hs ▸ exec_beginBuild s
  obtain ⟨b₁, hsteps, hb₁⟩ := stepsEvents_runTo h b.holdsBuild_begun
  obtain ⟨b₂, hseal, hb₂⟩ := hb₁.seal fun m hm => applySteps_mayBeSealed hm mayBeSealed_zeroed
  refine ⟨b₂, hbegin.append (hsteps.append hseal), ?_⟩
  rw [build_eq_applySteps]
  exact hb₂

end Sys2Proof.Machine
end

section
/-! The statements about runs: admitted actions, the host sequence of a build, and lines of the assembly
language (20_memory.md R53, 30_encoding.md R90 to R92, 41_builder.md R140). -/

namespace Sys2Proof.Machine

open Sys2Proof.Claims

/-- Settles O52, by induction on the number of steps. -/
theorem admittedRunsNeverStop : Obligations.AdmittedRunsNeverStop := fun _ k h =>
  core_run_of_admitted k h

/-- Settles O57: the block follows the build command by command. -/
theorem hostSequenceCarriesOutBuild : Obligations.HostSequenceCarriesOutBuild := by
  intro steps s h
  obtain ⟨b', hrun, hrec⟩ := buildEvents_runTo h s.blk
  refine ⟨_, hrun.run, rfl, rfl, ?_⟩
  cases hb : build steps with
  | ok m => rw [hb] at hrec; exact hrec
  | error e => rw [hb] at hrec; exact hrec

/-- Settles O59: the two operand writes put tc_64(V) in OPA, and the last step runs the command. -/
theorem valuePseudoLoadsThenRuns : Obligations.ValuePseudoLoadsThenRuns := by
  intro i v s es h
  rw [AsmLine.expand, whenFits] at h
  split at h
  case isFalse => exact nomatch h
  case isTrue hfits =>
    obtain rfl := Option.some.inj h
    obtain ⟨hi, -⟩ := Bool.and_eq_true_iff.mp hfits
    refine (RunsTo.load .a v s.blk s [instrEvent i] 1 rfl).trans ?_
    rw [core_run_one, step_cons rfl]
    exact perform_instrEvent hi _

/-- Settles O60: the line is one CMD write of the command's word, or does not fit. -/
theorem commandLineRunsItsCommand : Obligations.CommandLineRunsItsCommand := by
  refine fun i s => ⟨fun h => ⟨[instrEvent i], if_pos h, ?_⟩, fun h => if_neg h⟩
  rw [List.length_singleton, core_run_one, step_cons rfl]
  exact perform_instrEvent h _

end Sys2Proof.Machine
end
